-- ==== Sys2Proof/Config.lean ====
section
/-! DEFINITION. The build-time parameters of the block (spec/00_scope.md R6) and the one value the
spec leaves OPEN. -/

namespace Sys2Proof

/-- LATENCY is OPEN (R6, D16): the spec fixes no value, so this one has no body and no proof can see
what it is.  UNVERIFIED value, safe: notes/assumptions/2.md. -/
opaque Config.latency : Nat

/-- The parameters of R6.  Each is fixed when the block is built; no step writes one (R24). -/
structure Params where
  /-- CHAR_W: width of a code unit, at least 8 (D4). -/
  charW : Nat
  /-- LEN_W: width of `req_txt_len`, at least 6 (D5). -/
  lenW : Nat
  /-- STRICT_HYPHENS: whether PARSE checks the separators (D6). -/
  strictHyphens : Bool
  /-- HAS_V4GEN: whether the version-4 fix-up unit is present (D11). -/
  hasV4gen : Bool
  /-- LATENCY: cycles from request to response (D16). -/
  latency : Nat
  deriving DecidableEq, Repr

/-- The bounds R6 puts on the two widths. -/
def Params.wf (cfg : Params) : Bool := decide (8 ≤ cfg.charW) && decide (6 ≤ cfg.lenW)

/-- The values the spec takes (R6): CHAR_W = 8, LEN_W = 8, STRICT_HYPHENS = 1, HAS_V4GEN = 1,
LATENCY open. -/
def Params.spec : Params :=
  { charW := 8, lenW := 8, strictHyphens := true, hasV4gen := true, latency := Config.latency }

end Sys2Proof
end

