-- ==== Sys2Proof/Word.lean ====
section
/-! DEFINITION. The word types of the fast-uuid codec core (spec/00_scope.md R7, R8, R10;
spec/10_state.md R21). -/

namespace Sys2Proof

/-- `high` or `low`, WORD_W = 64 bits, unsigned (R7, R8). -/
abbrev Word := BitVec 64

/-- One random byte (R25, R66). -/
abbrev Byte := BitVec 8

/-- One hexadecimal digit's worth of data (R8, glossary). -/
abbrev Nibble := BitVec 4

/-- The 36 text lanes of `req_txt` and `rsp_txt`; lane `p` is text position `p` (R25, R45).
A lane holds a code unit, an unsigned number below `2^CHAR_W` (R10): the block only looks it up and
compares it, and CHAR_W is a parameter, so it is a number, and its width is a check
(`Instr.illFormed?`; notes/assumptions/9.md). -/
abbrev Text := Vector Nat 36

/-- The 16 lanes of `req_rnd`; lane `i` is random byte `i` (R25, R45). -/
abbrev Rnd := Vector Byte 16

/-- A UUID value, the pair (`high`, `low`); every pair is legal and equality is bitwise (R21). -/
structure UUID where
  /-- `U[127:64]` -/
  high : Word
  /-- `U[63:0]` -/
  low : Word
  deriving DecidableEq, Repr

/-- The 128-bit value `U = high || low` (R8, R21). -/
def UUID.bits (u : UUID) : BitVec 128 := u.high ++ u.low

end Sys2Proof
end

