-- ==== Sys2Proof/Syntax.lean ====
section
/-! DEFINITION. The four operations (spec/30_encoding.md R71, spec/opcode_table.json) and the request
record that carries one (R70). -/

namespace Sys2Proof

/-- One constructor per row of the operation table; its arguments are the request fields the
operation reads (R26). -/
inductive Instr where
  /-- PARSE: `req_txt_len` and `req_txt` (R90). -/
  | parse (len : Nat) (txt : Text)
  /-- FORMAT: `req_hi` and `req_lo` (R110). -/
  | format (hi lo : Word)
  /-- V4GEN: `req_rnd` (R120). -/
  | v4gen (rnd : Rnd)
  /-- V4GENS: `req_rnd` (R126). -/
  | v4gens (rnd : Rnd)
  deriving DecidableEq, Repr

/-- The request record REQ: the `req_*` fields of R25 (R70).  Each field is a port of its own. -/
structure Request where
  /-- `req_op`, 2 bits -/
  op : BitVec 2
  /-- `req_txt_len`, LEN_W bits -/
  txtLen : Nat
  /-- `req_txt[0..35]`, lanes of CHAR_W bits -/
  txt : Text
  /-- `req_hi` -/
  hi : Word
  /-- `req_lo` -/
  lo : Word
  /-- `req_rnd[0..15]` -/
  rnd : Rnd
  deriving DecidableEq, Repr

end Sys2Proof
end

