-- ==== Sys2Proof/Machine/Operands.lean ====
section
/-! DEFINITION. Positions, nibbles and bytes: where each character's four bits stand in the value
(spec/30_encoding.md R60 to R66), the byte view (spec/20_memory.md R45), and how a host presents a text
(spec/10_state.md R28). -/

namespace Sys2Proof.Machine

/-- SEP_POS (R7). -/
def sepPos : List (Fin 36) := [8, 13, 18, 23]

/-- The digit positions of `high`, in increasing order (R95). -/
def hiPos : List (Fin 36) := [0, 1, 2, 3, 4, 5, 6, 7, 9, 10, 11, 12, 14, 15, 16, 17]

/-- The digit positions of `low`, in increasing order (R95). -/
def loPos : List (Fin 36) := [19, 20, 21, 22, 24, 25, 26, 27, 28, 29, 30, 31, 32, 33, 34, 35]

/-- DIGIT_POS (R7). -/
def digitPos : List (Fin 36) := hiPos ++ loPos

/-- `s(p)`: the number of separator positions below `p` (R64). -/
def sepsBelow (p : Nat) : Nat :=
  if p ≤ 7 then 0 else if p ≤ 12 then 1 else if p ≤ 17 then 2 else if p ≤ 22 then 3 else 4

/-- `k(p) = p - s(p)`, the nibble number of a digit position (R64). -/
def nibbleAt (p : Nat) : Nat := p - sepsBelow p

/-- `p(k)`, the text position of nibble `k` (R65). -/
def posOf (k : Fin 32) : Fin 36 :=
  ⟨k.val + (if 8 ≤ k.val then 1 else 0) + (if 12 ≤ k.val then 1 else 0)
    + (if 16 ≤ k.val then 1 else 0) + (if 20 ≤ k.val then 1 else 0), by split_ifs <;> omega⟩

/-- Nibble `k` of a value by right shift and mask, nibble 0 the most significant of `high` (R111). -/
def nibble (u : UUID) (k : Nat) : Nibble :=
  let w : BitVec 64 := if k ≤ 15 then u.high else u.low
  ((w >>> (60 - 4 * (k % 16))) &&& 0xF#64).setWidth 4

/-- The merge of one nibble into a word: shift left 4, OR in the nibble (R95). -/
def mergeNibble (w : BitVec 64) (v : BitVec 4) : BitVec 64 := (w <<< 4) ||| v.setWidth 64

/-- A byte appended to a word on the right, `w || b` with the oldest bits dropped (R45). -/
def mergeByte (w : BitVec 64) (b : BitVec 8) : BitVec 64 := (w <<< 8) ||| b.setWidth 64

/-- Eight bytes big-endian in a word: `b[0] || b[1] || … || b[7]` (R45, R124). -/
def packWord (bs : List (BitVec 8)) : BitVec 64 := bs.foldl mergeByte 0#64

/-- Bytes 0 to 7 big-endian into `high`, bytes 8 to 15 big-endian into `low` (R45, R124). -/
def packBytes (b : Rnd) : UUID :=
  { high := packWord [b[0], b[1], b[2], b[3], b[4], b[5], b[6], b[7]]
    low := packWord [b[8], b[9], b[10], b[11], b[12], b[13], b[14], b[15]] }

/-- Byte `i` of a value, `U[127-8i : 120-8i]` (R66). -/
def byteAt (u : UUID) (i : Fin 16) : Byte := u.bits.extractLsb' (120 - 8 * i.val) 8

/-- The 16 bytes of a value, byte 0 first (R66). -/
def bytesOf (u : UUID) : Rnd := Vector.ofFn fun i : Fin 16 => byteAt u i

/-- The length a host owes for a text of `n` code units: `n`, saturated at `2^LEN_W - 1` (R28). -/
def presentLen (cfg : Params) (n : Nat) : Nat := min n (2 ^ cfg.lenW - 1)

/-- The lanes a host owes for the text `t`: `t[p]` where the text has a position `p`, anything beyond
it, here what `rest` holds (R28). -/
def presentLanes (t : List Nat) (rest : Text) : Text :=
  Vector.ofFn fun p : Fin 36 => t.getD p.val rest[p]

/-- The request by which a host presents `t` to PARSE, the ports PARSE ignores as in `rest` (R28). -/
def presentText (cfg : Params) (t : List Nat) (rest : Request) : Request :=
  { rest with op := 0#2, txtLen := presentLen cfg t.length, txt := presentLanes t rest.txt }

end Sys2Proof.Machine
end

