-- ==== Sys2Proof/WellFormed.lean ====
section
/-! DEFINITION. When an operation's operands are values its ports can carry
(spec/10_state.md R25: `req_txt_len` has LEN_W bits, a text lane CHAR_W bits). -/

namespace Sys2Proof

/-- Why an operand cannot stand on its port. -/
inductive IllFormed where
  /-- `req_txt_len` does not fit LEN_W bits. -/
  | lengthTooWide
  /-- some lane of `req_txt` does not fit CHAR_W bits. -/
  | laneTooWide
  deriving DecidableEq, Repr

/-- The first width check of R25 that the instruction's operands break, if any.  The words and the
random bytes have fixed widths and cannot break one. -/
def Instr.illFormed? (cfg : Params) : Instr → Option IllFormed
  | .parse len txt =>
    if 2 ^ cfg.lenW ≤ len then some .lengthTooWide
    else if ∃ p : Fin 36, 2 ^ cfg.charW ≤ txt[p] then some .laneTooWide
    else none
  | .format _ _ => none
  | .v4gen _ => none
  | .v4gens _ => none

/-- Every operand fits its port. -/
abbrev Instr.WellFormed (cfg : Params) (i : Instr) : Prop := i.illFormed? cfg = none

end Sys2Proof
end

