-- ==== Sys2Proof/Decode.lean ====
section
/-! DEFINITION. From a request's ports to the operation it selects (spec/30_encoding.md R70, R71),
the encoder back, and the flat numbering of a request's bits (spec/20_memory.md R46). -/

namespace Sys2Proof

/-! ### Requests -/

/-- The operation a request selects, and the operand fields it reads (R70, R71): code 0 PARSE,
1 FORMAT, 2 V4GEN, 3 V4GENS.  The fields the operation does not read are ignored (R26). -/
def Request.instr (q : Request) : Instr :=
  if q.op = 0#2 then .parse q.txtLen q.txt
  else if q.op = 1#2 then .format q.hi q.lo
  else if q.op = 2#2 then .v4gen q.rnd
  else .v4gens q.rnd

/-- The decoder, total on any request: the selected operation, or, by name, the width its operands
break.  No operation code is rejected here: a code that is reserved when HAS_V4GEN = 0 is answered
BAD_OP by the operation itself (R74, R129). -/
def decode (cfg : Params) (q : Request) : Except IllFormed Instr :=
  match q.instr.illFormed? cfg with
  | some e => .error e
  | none => .ok q.instr

/-- The operation code of R71. -/
def Instr.op : Instr → BitVec 2
  | .parse _ _ => 0#2
  | .format _ _ => 1#2
  | .v4gen _ => 2#2
  | .v4gens _ => 3#2

/-- A request with every operand port at zero. -/
def Request.blank (op : BitVec 2) : Request :=
  { op := op, txtLen := 0, txt := Vector.replicate 36 0, hi := 0#64, lo := 0#64,
    rnd := Vector.replicate 16 0#8 }

/-- The encoder: the request that carries an instruction.  The ports the operation ignores may hold
anything (R70, D25); here they hold zero (DESIGN CHOICE, safe: notes/assumptions/6.md). -/
def encode : Instr → Request
  | .parse len txt => { Request.blank 0#2 with txtLen := len, txt := txt }
  | .format hi lo => { Request.blank 1#2 with hi := hi, lo := lo }
  | .v4gen rnd => { Request.blank 2#2 with rnd := rnd }
  | .v4gens rnd => { Request.blank 3#2 with rnd := rnd }

/-! ### Flat packing (R46) -/

/-- Lanes in one number, lane 0 most significant, each lane a digit of base `b` (R46). -/
def packLanes (b : Nat) : List Nat → Nat
  | [] => 0
  | c :: cs => c * b ^ cs.length + packLanes b cs

/-- Digit `p` of `n` digits of base `b`, digit 0 most significant (R46). -/
def laneOf (b n flat p : Nat) : Nat := flat / b ^ (n - 1 - p) % b

/-- `req_txt_flat` and `rsp_txt_flat` (R46). -/
def flatText (cfg : Params) (t : Text) : Nat := packLanes (2 ^ cfg.charW) t.toList

/-- The 36 lanes of a flat text bus (R46). -/
def textOfFlat (cfg : Params) (flat : Nat) : Text :=
  Vector.ofFn fun p : Fin 36 => laneOf (2 ^ cfg.charW) 36 flat p.val

/-- `req_rnd_flat` (R46). -/
def flatRnd (r : Rnd) : Nat := packLanes 256 (r.toList.map (·.toNat))

/-- The 16 lanes of a flat random-byte bus (R46). -/
def rndOfFlat (flat : Nat) : Rnd :=
  Vector.ofFn fun i : Fin 16 => BitVec.ofNat 8 (laneOf 256 16 flat i.val)

/-! ### The bits of a request as one number

The spec gives no packed word (R70).  To number a request's bits as spec/opcode_table.json numbers
them, the model lays the ports out in R70's order (DESIGN CHOICE, safe: notes/assumptions/5.md):
`req_op` in bits 1..0 of the first byte, whose other bits are no wires of the port and are not read;
above it `req_txt_len`, `req_txt_flat`, `req_hi`, `req_lo`, `req_rnd_flat`. -/

/-- The ports that the bits of `w` stand for. -/
def Request.ofWord (cfg : Params) (w : Nat) : Request :=
  let w₁ := w / 2 ^ 8
  let w₂ := w₁ / 2 ^ cfg.lenW
  let w₃ := w₂ / (2 ^ cfg.charW) ^ 36
  let w₄ := w₃ / 2 ^ 64
  let w₅ := w₄ / 2 ^ 64
  { op := BitVec.ofNat 2 w
    txtLen := w₁ % 2 ^ cfg.lenW
    txt := textOfFlat cfg (w₂ % (2 ^ cfg.charW) ^ 36)
    hi := BitVec.ofNat 64 w₃
    lo := BitVec.ofNat 64 w₄
    rnd := rndOfFlat (w₅ % 2 ^ 128) }

/-- The bits of a request in that numbering. -/
def Request.toWord (cfg : Params) (q : Request) : Nat :=
  q.op.toNat + 2 ^ 8 * (q.txtLen + 2 ^ cfg.lenW * (flatText cfg q.txt
    + (2 ^ cfg.charW) ^ 36 * (q.hi.toNat + 2 ^ 64 * (q.lo.toNat + 2 ^ 64 * flatRnd q.rnd))))

/-- The instruction the decoder reads from the bits `w` of an instruction of `nbits` bits, the bits
above `nbits` zero, at the parameter values of R6. -/
def decodeTableWord (nbits w : Nat) : Option Instr :=
  match decode Params.spec (Request.ofWord Params.spec (w % 2 ^ nbits)) with
  | .ok i => some i
  | .error _ => none

end Sys2Proof
end

