-- ==== Sys2Proof/Machine/State.lean ====
section
/-! DEFINITION. The state of the block (spec/10_state.md R25, R33, R34), the outcomes of an operation
(R29, spec/60_exceptions.md R130 to R136), and the reasons a step can stop. -/

namespace Sys2Proof.Machine

/-! ### What an operation answers -/

/-- The causes of the single error kind `InvalidFormat`, each with the diagnostics it records
(R130 to R133, R137). -/
inductive Cause where
  /-- cause (a): the length presented (R131) -/
  | wrongLength (len : Nat)
  /-- cause (c): the separator position and the character found there (R132) -/
  | missingSeparator (pos : Fin 36) (char : Nat)
  /-- cause (b): the digit position and the character found there (R133) -/
  | illegalHexDigit (pos : Fin 36) (char : Nat)
  deriving DecidableEq, Repr

/-- What an operation answers.  An error carries no UUID (R29, R97). -/
inductive Answer where
  /-- success with a binary value (PARSE, V4GEN) -/
  | value (u : UUID)
  /-- success with a text (FORMAT, V4GENS) -/
  | text (t : Text)
  /-- `InvalidFormat` (PARSE) -/
  | invalidFormat (c : Cause)
  /-- reserved operation code (V4GEN, V4GENS when HAS_V4GEN = 0) -/
  | badOp
  deriving DecidableEq, Repr

/-- The response record RSP: the `rsp_*` fields of R25, all driven by every response (R29, R77). -/
structure Response where
  /-- `rsp_status`, 3 bits -/
  status : BitVec 3
  /-- `rsp_hi` -/
  hi : Word
  /-- `rsp_lo` -/
  lo : Word
  /-- `rsp_txt[0..35]`, lanes of CHAR_W bits -/
  txt : Text
  /-- `rsp_err_pos`, 6 bits -/
  errPos : BitVec 6
  /-- `rsp_err_char`, CHAR_W bits -/
  errChar : Nat
  /-- `rsp_err_len`, LEN_W bits -/
  errLen : Nat
  deriving DecidableEq, Repr

/-! ### The machine's state -/

/-- What the host drives on the input ports in one cycle of `clk` (R25). -/
structure PortsIn where
  /-- `rst` -/
  rst : Bool
  /-- `req_valid` -/
  reqValid : Bool
  /-- the `req_*` fields -/
  req : Request
  deriving DecidableEq, Repr

/-- The state.  The two tables `HEXVAL` and `HEXCHR` are constants (R20, R34) and are the functions
`hexval` and `hexchr` of Machine/Tables.lean. -/
structure State where
  /-- the build-time parameters; no step writes them (R6, R24).  notes/assumptions/1.md -/
  cfg : Params
  /-- what the host drives in the cycles to come, the next one first; after the last one it presents
  nothing.  The model's own field: notes/assumptions/3.md -/
  inputs : List PortsIn
  /-- the pipeline registers, LATENCY of them, the oldest first: valid bit and data in one, `none` is
  valid bit 0 (R33, R34).  notes/assumptions/4.md -/
  pipe : List (Option Response)
  /-- the response channel as driven in the cycle just done: `none` is `rsp_valid` = 0, where the
  `rsp_*` fields have no value (R34).  notes/assumptions/4.md -/
  rsp : Option Response
  deriving DecidableEq, Repr

/-- `rsp_valid` (R25). -/
def State.rspValid (s : State) : Bool := s.rsp.isSome

/-- The reset state of R34 at given parameters: nothing in flight, `rsp_valid` = 0. -/
def State.resetWith (cfg : Params) : State :=
  { cfg := cfg, inputs := [], pipe := List.replicate cfg.latency none, rsp := none }

/-- The machine right after reset, at the parameter values of R6. -/
def State.reset : State := State.resetWith Params.spec

/-! ### Reasons to stop -/

/-- The one fault. -/
inductive Fault where
  /-- Raised by `step` alone, when `inputs` holds a request whose operands no port could carry (a
  length of more than LEN_W bits, a character of more than CHAR_W bits; R28, U12).  No request that
  hardware can be given raises it.  Safe: notes/assumptions/7.md -/
  | unpresentable (why : IllFormed)
  deriving DecidableEq, Repr

/-- The one refusal. -/
inductive Refusal where
  /-- An operation that has no meaning yet; raised by no arm of `exec`.  Safe. -/
  | notModelled (mnemonic : String)
  deriving DecidableEq, Repr

end Sys2Proof.Machine
end

