-- ==== Sys2Proof/Machine/Flags.lean ====
section
/-! DEFINITION. The one status flag, `rsp_status` (spec/10_state.md R30), and its codes
(spec/60_exceptions.md R136). -/

namespace Sys2Proof.Machine

/-- Code of each cause of `InvalidFormat` (R131 to R133, R136). -/
def Cause.status : Cause → BitVec 3
  | .wrongLength _ => 1#3
  | .missingSeparator _ _ => 2#3
  | .illegalHexDigit _ _ => 3#3

/-- Code of each outcome: 0 OK, 1 to 3 `InvalidFormat`, 4 BAD_OP (R136). -/
def Answer.status : Answer → BitVec 3
  | .value _ => 0#3
  | .text _ => 0#3
  | .invalidFormat c => c.status
  | .badOp => 4#3

end Sys2Proof.Machine
end

