-- ==== Sys2Proof/Machine/Ops.lean ====
section
/-! DEFINITION. The shared operations: driving the response ports (spec/10_state.md R29), reporting an
error (spec/60_exceptions.md R137, R141), one cycle of the response pipeline and reset
(spec/70_reset_and_hazards.md R160, R162, R165). -/

namespace Sys2Proof.Machine

/-- Every response field at zero. -/
def Response.zero : Response :=
  { status := 0#3, hi := 0#64, lo := 0#64, txt := Vector.replicate 36 0, errPos := 0#6,
    errChar := 0, errLen := 0 }

/-- The block's "trap entry": the response carries the cause's code and its diagnostics, and no value
(R131 to R133, R137, R141).  There is no saved state and no return (R142). -/
def Cause.drive (c : Cause) : Response :=
  match c with
  | .wrongLength len => { Response.zero with status := c.status, errLen := len }
  | .missingSeparator pos char =>
    { Response.zero with status := c.status, errPos := BitVec.ofNat 6 pos.val, errChar := char }
  | .illegalHexDigit pos char =>
    { Response.zero with status := c.status, errPos := BitVec.ofNat 6 pos.val, errChar := char }

/-- The response ports for an answer: the table of R29, a field without a meaning driven to zero. -/
def Answer.drive (a : Answer) : Response :=
  match a with
  | .value u => { Response.zero with status := a.status, hi := u.high, lo := u.low }
  | .text t => { Response.zero with status := a.status, txt := t }
  | .invalidFormat c => c.drive
  | .badOp => { Response.zero with status := a.status }

/-- One cycle of the response pipeline: `a` enters it (`none` when no request is accepted) and the
response accepted LATENCY cycles ago is presented, in the same cycle when LATENCY = 0 (R165). -/
def State.cycle (s : State) (a : Option Response) : State :=
  match s.pipe with
  | [] => { s with rsp := a }
  | oldest :: rest => { s with pipe := rest ++ [a], rsp := oldest }

/-- The block accepts a request and answers it (R165, R167). -/
def State.accept (s : State) (a : Answer) : State := s.cycle (some a.drive)

/-- A cycle with `rst` = 1: no request is accepted, no response is presented, the requests in flight
are discarded (R160, R162); parameters are untouched (R34). -/
def State.resetCycle (s : State) : State :=
  { s with pipe := List.replicate s.cfg.latency none, rsp := none }

end Sys2Proof.Machine
end

