-- ==== Sys2Proof/Machine/Tables.lean ====
section
/-! DEFINITION. The two read-only lookup tables (spec/20_memory.md R40 to R43), constants of the
design (R20, R163). -/

namespace Sys2Proof.Machine

/-- The hyphen's code (R62). -/
def hyphen : Nat := 0x2D

/-- `HEXVAL`, character code to nibble: `none` is `invalid`, kept apart from every value, and the
table answers for every code unit (R41, R43). -/
def hexval (c : Nat) : Option Nibble :=
  if 0x30 ≤ c ∧ c ≤ 0x39 then some (BitVec.ofNat 4 (c - 0x30))
  else if 0x41 ≤ c ∧ c ≤ 0x46 then some (BitVec.ofNat 4 (c - 0x37))
  else if 0x61 ≤ c ∧ c ≤ 0x66 then some (BitVec.ofNat 4 (c - 0x57))
  else none

/-- `HEXCHR`, nibble to lowercase character code, zero-extended to CHAR_W bits (R42, R77). -/
def hexchr (n : Nibble) : Nat :=
  if n.toNat ≤ 9 then 0x30 + n.toNat else 0x57 + n.toNat

/-- `toLowercase`: 0x41-0x46 to 0x61-0x66, the other codes of R62's table unchanged (R63).  DESIGN CHOICE
(log entry 11): the spec gives it no behaviour on a code outside that table; here such a code is unchanged,
and no operation and no statement applies it there. -/
def toLower (c : Nat) : Nat := if 0x41 ≤ c ∧ c ≤ 0x46 then c + 0x20 else c

/-- `toUppercase`: 0x61-0x66 to 0x41-0x46, the other codes of R62's table unchanged (R63).  DESIGN CHOICE
(log entry 11): the spec gives it no behaviour on a code outside that table; here such a code is unchanged,
and no operation and no statement applies it there. -/
def toUpper (c : Nat) : Nat := if 0x61 ≤ c ∧ c ≤ 0x66 then c - 0x20 else c

end Sys2Proof.Machine
end

