-- ==== Sys2Proof/Machine/Decoder.lean ====
section
/-! DEFINITION. PARSE, the text-to-binary decoder (spec/40_parse.md). -/

namespace Sys2Proof.Machine

/-- The lowest separator position whose character is not the hyphen (R92, R140). -/
def badSeparator? (t : Text) : Option (Fin 36) := sepPos.find? fun p => t[p] != hyphen

/-- Hex lookup and bit assembly over digit positions, left to right: the word, or the first position
whose character is invalid (R94, R95). -/
def assemble (t : Text) : List (Fin 36) → Word → Except (Fin 36) Word
  | [], w => .ok w
  | p :: ps, w =>
    match hexval t[p] with
    | none => .error p
    | some v => assemble t ps (mergeNibble w v)

/-- The digit check and the router: both words, or `InvalidFormat` at the first invalid digit
(R94 to R97). -/
def decodeDigits (t : Text) : Answer :=
  match assemble t hiPos 0#64 with
  | .error p => .invalidFormat (.illegalHexDigit p t[p])
  | .ok high =>
    match assemble t loPos 0#64 with
    | .error p => .invalidFormat (.illegalHexDigit p t[p])
    | .ok low => .value { high := high, low := low }

/-- PARSE: the length check, the separator check when STRICT_HYPHENS = 1, then the digits
(R90 to R94, R139). -/
def parseAnswer (cfg : Params) (len : Nat) (t : Text) : Answer :=
  if len ≠ 36 then .invalidFormat (.wrongLength len)
  else if cfg.strictHyphens then
    match badSeparator? t with
    | some p => .invalidFormat (.missingSeparator p t[p])
    | none => decodeDigits t
  else decodeDigits t

/-- PARSE (R90). -/
def execParse (len : Nat) (txt : Text) (s : State) : Host.Outcome State Fault Refusal :=
  .next (s.accept (parseAnswer s.cfg len txt))

end Sys2Proof.Machine
end

