-- ==== Sys2Proof/Machine/Encoder.lean ====
section
/-! DEFINITION. FORMAT, the binary-to-text encoder (spec/41_format.md). -/

namespace Sys2Proof.Machine

/-- The canonical text of a value: the hyphen at the separator positions, the character of nibble
`k(p)` at digit position `p` (R111, R112). -/
def formatText (u : UUID) : Text :=
  Vector.ofFn fun p : Fin 36 => if p ∈ sepPos then hyphen else hexchr (nibble u (nibbleAt p.val))

/-- FORMAT (R110). -/
def execFormat (hi lo : Word) (s : State) : Host.Outcome State Fault Refusal :=
  .next (s.accept (.text (formatText { high := hi, low := lo })))

end Sys2Proof.Machine
end

