-- ==== Sys2Proof/Machine/Generator.lean ====
section
/-! DEFINITION. V4GEN and V4GENS, the version-4 fix-up unit (spec/42_v4gen.md). -/

namespace Sys2Proof.Machine

/-- `byte6 = (byte6 & 0x0F) | 0x40` (R122). -/
def fixVersion (b : BitVec 8) : BitVec 8 := (b &&& 0x0F#8) ||| 0x40#8

/-- `byte8 = (byte8 & 0x3F) | 0x80` (R123). -/
def fixVariant (b : BitVec 8) : BitVec 8 := (b &&& 0x3F#8) ||| 0x80#8

/-- V4FIX: the two fix-ups, then the packing (R120, R122 to R124). -/
def v4fix (r : Rnd) : UUID := packBytes ((r.set 6 (fixVersion r[6])).set 8 (fixVariant r[8]))

/-- An operation of the optional unit: its answer when the unit is present, BAD_OP when HAS_V4GEN = 0
(R74, R129).  R74 also advises a model to refuse the reserved code; this one gives the answer the block
gives: DESIGN CHOICE, unsafe: notes/assumptions/8.md. -/
def ifV4gen (cfg : Params) (a : Answer) : Answer := if cfg.hasV4gen then a else .badOp

/-- V4GEN (R120). -/
def execV4gen (rnd : Rnd) (s : State) : Host.Outcome State Fault Refusal :=
  .next (s.accept (ifV4gen s.cfg (.value (v4fix rnd))))

/-- V4GENS (R126). -/
def execV4gens (rnd : Rnd) (s : State) : Host.Outcome State Fault Refusal :=
  .next (s.accept (ifV4gen s.cfg (.text (formatText (v4fix rnd)))))

end Sys2Proof.Machine
end

