-- ==== Sys2Proof/Machine/Dispatch.lean ====
section
/-! DEFINITION. The dispatch: one arm per operation of spec/30_encoding.md R71. -/

namespace Sys2Proof.Machine

/-- One accepted request: the operation answers, and the block moves on by one cycle (R12, R165). -/
def exec (i : Instr) (s : State) : Host.Outcome State Fault Refusal :=
  match i with
  | .parse len txt => Sys2Proof.Machine.execParse len txt s
  | .format hi lo => Sys2Proof.Machine.execFormat hi lo s
  | .v4gen rnd => Sys2Proof.Machine.execV4gen rnd s
  | .v4gens rnd => Sys2Proof.Machine.execV4gens rnd s

end Sys2Proof.Machine
end

