-- ==== Sys2Proof/Machine/Step.lean ====
section
/-! DEFINITION. One cycle of the block (spec/70_reset_and_hazards.md R160 to R169). -/

namespace Sys2Proof.Machine

/-- One cycle of `clk`.  The host's ports are sampled once, in this cycle (R169).  With `rst` = 1 the
request is ignored and what is in flight is discarded (R160, R162); with `req_valid` = 1 the request
is accepted and performed (R165, R167); otherwise the pipeline moves on and nothing else happens
(R144).  When `inputs` is empty the host presents nothing. -/
def step (s : State) : Host.Outcome State Fault Refusal :=
  match s.inputs with
  | [] => .next (s.cycle none)
  | now :: later =>
    if now.rst then .next { s with inputs := later }.resetCycle
    else if now.reqValid then
      match decode s.cfg now.req with
      | .error e => .fault (.unpresentable e)
      | .ok i => exec i { s with inputs := later }
    else .next ({ s with inputs := later }.cycle none)

/-- The state whose next cycle presents the request that the bits `w` stand for, `rst` low: only the
input ports of that cycle change. -/
def State.withFetchWord (s : State) (nbits w : Nat) : State :=
  { s with
    inputs := { rst := false, reqValid := true, req := Request.ofWord s.cfg (w % 2 ^ nbits) }
      :: s.inputs.tail }

end Sys2Proof.Machine
end

