-- ==== Sys2Proof/Safety.lean ====
section
/-! DEFINITION. The words the statements use: the rows of the response table (spec/10_state.md R29),
the texts PARSE accepts (spec/40_parse.md R105), what may ever stand on the response channel, and the
responses a run presents (spec/70_reset_and_hazards.md R165). -/

namespace Sys2Proof.Machine

/-! ### The rows of R29's table -/

/-- PARSE success and V4GEN: status 0, the value, every other field 0. -/
def rowValue (hi lo : Word) : Response :=
  ⟨0#3, hi, lo, Vector.replicate 36 0, 0#6, 0, 0⟩

/-- FORMAT and V4GENS: status 0, the text, every other field 0. -/
def rowText (t : Text) : Response := ⟨0#3, 0#64, 0#64, t, 0#6, 0, 0⟩

/-- PARSE, wrong length: status 1, `rsp_err_len`, every other field 0. -/
def rowWrongLength (len : Nat) : Response :=
  ⟨1#3, 0#64, 0#64, Vector.replicate 36 0, 0#6, 0, len⟩

/-- PARSE, missing separator: status 2, the position and the character, every other field 0. -/
def rowMissingSeparator (pos : Fin 36) (char : Nat) : Response :=
  ⟨2#3, 0#64, 0#64, Vector.replicate 36 0, BitVec.ofNat 6 pos.val, char, 0⟩

/-- PARSE, illegal hex digit: status 3, the position and the character, every other field 0. -/
def rowIllegalHexDigit (pos : Fin 36) (char : Nat) : Response :=
  ⟨3#3, 0#64, 0#64, Vector.replicate 36 0, BitVec.ofNat 6 pos.val, char, 0⟩

/-- Reserved operation code: status 4, every other field 0. -/
def rowBadOp : Response := ⟨4#3, 0#64, 0#64, Vector.replicate 36 0, 0#6, 0, 0⟩

/-! ### Texts and values -/

/-- A hyphen at every separator position (R92). -/
abbrev SeparatorsOk (t : Text) : Prop := ∀ p ∈ sepPos, t[p] = 0x2D

/-- A character of the hex alphabet at every digit position (R94). -/
abbrev DigitsOk (t : Text) : Prop := ∀ p ∈ digitPos, (hexval t[p]).isSome = true

/-- The accepted texts of length 36: hyphens (strict mode only) and hex digits (R105). -/
abbrev Accepted (cfg : Params) (t : Text) : Prop :=
  (cfg.strictHyphens = true → SeparatorsOk t) ∧ DigitsOk t

/-- The canonical texts: hyphens at the separator positions, `0`-`9` and `a`-`f` at the digit positions
(R22, R113). -/
abbrev Canonical (t : Text) : Prop :=
  SeparatorsOk t ∧
    ∀ p ∈ digitPos, (0x30 ≤ t[p] ∧ t[p] ≤ 0x39) ∨ (0x61 ≤ t[p] ∧ t[p] ≤ 0x66)

/-- Nibble `k` of a value as a slice, `U[127-4k : 124-4k]` (R44). -/
def sliceOf (u : UUID) (k : Fin 32) : Nibble := u.bits.extractLsb' (124 - 4 * k.val) 4

/-- Every lane of a text fits CHAR_W bits (R25). -/
abbrev LanesFit (cfg : Params) (t : Text) : Prop := ∀ p : Fin 36, t[p] < 2 ^ cfg.charW

/-! ### What may stand on the response channel -/

/-- A response fits the response ports and is one row of R29's table, its fields as the row's rule says
(R131 to R134, R136: no other status exists). -/
def Response.Legal (cfg : Params) (r : Response) : Prop :=
  (LanesFit cfg r.txt ∧ r.errChar < 2 ^ cfg.charW ∧ r.errLen < 2 ^ cfg.lenW) ∧
    ((∃ hi lo, r = rowValue hi lo) ∨
      (∃ t, Canonical t ∧ r = rowText t) ∨
      (∃ len, len ≠ 36 ∧ r = rowWrongLength len) ∨
      (cfg.strictHyphens = true ∧
        ∃ p ∈ sepPos, ∃ c : Nat, c ≠ 0x2D ∧ r = rowMissingSeparator p c) ∨
      (∃ p ∈ digitPos, ∃ c : Nat, hexval c = none ∧ r = rowIllegalHexDigit p c) ∨
      (cfg.hasV4gen = false ∧ r = rowBadOp))

/-- The invariant of the block: parameters within R6's bounds, LATENCY pipeline registers, and only
legal responses in flight or presented. -/
structure State.Inv (s : State) : Prop where
  /-- R6's bounds on CHAR_W and LEN_W -/
  cfg_wf : s.cfg.wf = true
  /-- one pipeline register per cycle of LATENCY (R33) -/
  pipe_length : s.pipe.length = s.cfg.latency
  /-- what is in flight (R33) -/
  pipe_legal : ∀ a ∈ s.pipe, ∀ r, a = some r → r.Legal s.cfg
  /-- what is presented (R29) -/
  rsp_legal : ∀ r, s.rsp = some r → r.Legal s.cfg

/-! ### Runs -/

/-- `exec(cfg, request)` of R12: the answer of an operation as a function of the parameters and of its
own operands. -/
def answerOf (cfg : Params) (i : Instr) : Answer :=
  match i with
  | .parse len txt => parseAnswer cfg len txt
  | .format hi lo => .text (formatText { high := hi, low := lo })
  | .v4gen rnd => ifV4gen cfg (.value (v4fix rnd))
  | .v4gens rnd => ifV4gen cfg (.text (formatText (v4fix rnd)))

/-- The response that a cycle's ports call for: none where no request is presented. -/
def PortsIn.answer (cfg : Params) (c : PortsIn) : Option Response :=
  if c.reqValid then
    match decode cfg c.req with
    | .ok i => some (answerOf cfg i).drive
    | .error _ => none
  else none

/-- The ports hold values they can carry: a request presented is one the decoder reads. -/
abbrev PortsIn.Presentable (cfg : Params) (c : PortsIn) : Prop :=
  c.reqValid = true → c.req.instr.WellFormed cfg

/-- What the response channel shows in each of `n` cycles. -/
def outputs : Nat → State → List (Option Response)
  | 0, _ => []
  | n + 1, s =>
    match step s with
    | .next t => t.rsp :: outputs n t
    | .fault _ => []
    | .refused _ => []

end Sys2Proof.Machine
end

