-- ==== Sys2Proof/Certificates/Slice0/Obligations.lean ====
section
/-! DEFINITION. The statements for the provers, by the rules of spec/.  `s.cycle (some r)` is the state
after a cycle in which the response `r` enters the pipeline; what that means is stated by
`CycleMovesResponsesInOrder` and `StreamAnswersEachRequestInOrder`.  The rows `rowValue` … of R29's
table stand in Safety.lean. -/

open Sys2Proof Sys2Proof.Machine

/-! ### Tables, positions and orders -/

/-- R41: the 22 valid entries of HEXVAL and their values, and that there are exactly 22 for every
CHAR_W of at least 8. -/
def Obligations.HexvalHoldsExactlyTheTwentyTwoDigits : Prop :=
  (∀ (c : Nat) (v : Nibble), hexval c = some v ↔
      (0x30 ≤ c ∧ c ≤ 0x39 ∧ v.toNat = c - 0x30) ∨
      (0x41 ≤ c ∧ c ≤ 0x46 ∧ v.toNat = c - 0x37) ∨
      (0x61 ≤ c ∧ c ≤ 0x66 ∧ v.toNat = c - 0x57)) ∧
  ∀ charW, 8 ≤ charW →
    ((List.range (2 ^ charW)).filter fun c => (hexval c).isSome).length = 22

/-- R42: HEXCHR's codes, no uppercase letter among them, and HEXVAL inverts it (the last an inference the
spec marks as its own). -/
def Obligations.HexchrIsLowercaseAndHexvalInvertsIt : Prop :=
  ∀ n : Nibble,
    (n.toNat ≤ 9 → hexchr n = 0x30 + n.toNat) ∧
    (10 ≤ n.toNat → hexchr n = 0x57 + n.toNat) ∧
    ¬ (0x41 ≤ hexchr n ∧ hexchr n ≤ 0x5A) ∧
    hexval (hexchr n) = some n

/-- R43: an invalid code unit is not read as 0: only the character `0` has the value 0. -/
def Obligations.OnlyTheZeroCharacterReadsAsZero : Prop :=
  ∀ c : Nat, hexval c = some 0#4 ↔ c = 0x30

/-- The digit positions are the 32 that are no separator (R7); `p(k)` and `k(p)` are inverse on them, and
`p(k)` increases with `k` (R64 and R65, inferences the spec marks as its own). -/
def Obligations.NibblePositionsAreInverse : Prop :=
  (∀ p : Fin 36, p ∈ digitPos ↔ p ∉ sepPos) ∧
  (∀ k : Fin 32, posOf k ∈ digitPos ∧ nibbleAt (posOf k).val = k.val) ∧
  (∀ p ∈ digitPos, ∃ k : Fin 32, k.val = nibbleAt p.val ∧ posOf k = p) ∧
  ∀ j k : Fin 32, j < k → posOf j < posOf k

/-- R44, R111: nibble `k` as FORMAT extracts it, by shift and mask, is the slice of `high`
(`k` to 15) or of `low` (`k` from 16), and the slice `U[127-4k : 124-4k]` of the value. -/
def Obligations.NibbleExtractionIsItsSlice : Prop :=
  ∀ (u : UUID) (k : Fin 32),
    nibble u k.val = u.bits.extractLsb' (124 - 4 * k.val) 4 ∧
    (k.val ≤ 15 → nibble u k.val = u.high.extractLsb' (60 - 4 * k.val) 4) ∧
    (16 ≤ k.val → nibble u k.val = u.low.extractLsb' (60 - 4 * (k.val - 16)) 4)

/-- The bits of the value that each of the five groups of digits carries, most significant nibble first, and
the slice of the word they are.  This is R61, an inference the spec marks as its own (derived). -/
def Obligations.GroupsAreTheirBitRanges : Prop :=
  ∀ u : UUID,
    (sliceOf u 0 ++ sliceOf u 1 ++ sliceOf u 2 ++ sliceOf u 3 ++ sliceOf u 4 ++ sliceOf u 5
        ++ sliceOf u 6 ++ sliceOf u 7 = u.bits.extractLsb' 96 32 ∧
      u.bits.extractLsb' 96 32 = u.high.extractLsb' 32 32) ∧
    (sliceOf u 8 ++ sliceOf u 9 ++ sliceOf u 10 ++ sliceOf u 11 = u.bits.extractLsb' 80 16 ∧
      u.bits.extractLsb' 80 16 = u.high.extractLsb' 16 16) ∧
    (sliceOf u 12 ++ sliceOf u 13 ++ sliceOf u 14 ++ sliceOf u 15 = u.bits.extractLsb' 64 16 ∧
      u.bits.extractLsb' 64 16 = u.high.extractLsb' 0 16) ∧
    (sliceOf u 16 ++ sliceOf u 17 ++ sliceOf u 18 ++ sliceOf u 19 = u.bits.extractLsb' 48 16 ∧
      u.bits.extractLsb' 48 16 = u.low.extractLsb' 48 16) ∧
    (sliceOf u 20 ++ sliceOf u 21 ++ sliceOf u 22 ++ sliceOf u 23 ++ sliceOf u 24 ++ sliceOf u 25
        ++ sliceOf u 26 ++ sliceOf u 27 ++ sliceOf u 28 ++ sliceOf u 29 ++ sliceOf u 30
        ++ sliceOf u 31 = u.bits.extractLsb' 0 48 ∧
      u.bits.extractLsb' 0 48 = u.low.extractLsb' 0 48) ∧
    (List.finRange 32).map posOf
      = [0, 1, 2, 3, 4, 5, 6, 7] ++ [9, 10, 11, 12] ++ [14, 15, 16, 17] ++ [19, 20, 21, 22]
        ++ [24, 25, 26, 27, 28, 29, 30, 31, 32, 33, 34, 35]

/-- R46: lane `p` of a text stands at its place in the flat bus, and the two halves of
`req_rnd_flat` are the big-endian words of R45. -/
def Obligations.FlatPackingPlacesEveryLane : Prop :=
  (∀ (cfg : Params) (t : Text) (p : Fin 36), LanesFit cfg t →
    flatText cfg t / 2 ^ (cfg.charW * (35 - p.val)) % 2 ^ cfg.charW = t[p]) ∧
  (∀ (r : Rnd) (i : Fin 16), flatRnd r / 2 ^ (8 * (15 - i.val)) % 256 = r[i].toNat) ∧
  ∀ r : Rnd, flatRnd r = (packBytes r).high.toNat * 2 ^ 64 + (packBytes r).low.toNat

/-! ### Encoding -/

/-- R71: the code selects the operation, with the fields of R26; a request whose fields fit its
ports is always decoded, whatever its code. -/
def Obligations.OpcodesSelectTheOperations : Prop :=
  ∀ (cfg : Params) (q : Request),
    (q.op = 0#2 → q.txtLen < 2 ^ cfg.lenW → LanesFit cfg q.txt →
      decode cfg q = .ok (.parse q.txtLen q.txt)) ∧
    (q.op = 1#2 → decode cfg q = .ok (.format q.hi q.lo)) ∧
    (q.op = 2#2 → decode cfg q = .ok (.v4gen q.rnd)) ∧
    (q.op = 3#2 → decode cfg q = .ok (.v4gens q.rnd))

/-- The decoder rejects, by name, exactly the PARSE requests whose length or text is wider than its
port (the widths of R25).  The rejection is the model's (log entry 7). -/
def Obligations.DecodeRejectsExactlyTheUnpresentable : Prop :=
  ∀ (cfg : Params) (q : Request) (e : IllFormed), decode cfg q = .error e ↔
    q.op = 0#2 ∧
      ((e = .lengthTooWide ∧ 2 ^ cfg.lenW ≤ q.txtLen) ∨
       (e = .laneTooWide ∧ q.txtLen < 2 ^ cfg.lenW ∧ ¬ LanesFit cfg q.txt))

/-- Decoding the request the encoder writes for a well-formed instruction gives the instruction back,
through the ports and through the flat numbering of the request's bits (the numbering is the model's,
log entry 5). -/
def Obligations.DecodeOfEncodeIsIdentity : Prop :=
  ∀ (cfg : Params) (i : Instr), i.WellFormed cfg →
    decode cfg (encode i) = .ok i ∧
    Request.ofWord cfg (Request.toWord cfg (encode i)) = encode i

/-- Four requests written out from spec/95_test_vectors.md P1 to P3 decode to the operations they are
listed as. -/
def Obligations.ListedRequestsDecode : Prop :=
  let exu : Text := #v[0x31, 0x32, 0x33, 0x45, 0x34, 0x35, 0x36, 0x37, 0x2d, 0x45, 0x38, 0x39, 0x42,
    0x2d, 0x31, 0x32, 0x44, 0x33, 0x2d, 0x41, 0x34, 0x35, 0x36, 0x2d, 0x34, 0x32, 0x36, 0x36, 0x31,
    0x34, 0x31, 0x37, 0x34, 0x30, 0x30, 0x30]
  let rnd : Rnd := #v[0xff, 0xee, 0xdd, 0xcc, 0xbb, 0xaa, 0x99, 0x88, 0x77, 0x66, 0x55, 0x44, 0x33,
    0x22, 0x11, 0x00]
  let hi : Word := 0x123e4567e89b12d3#64
  let lo : Word := 0xa456426614174000#64
  decode Params.spec ⟨0b00#2, 0x24, exu, lo, hi, rnd⟩ = .ok (.parse 36 exu) ∧
  decode Params.spec ⟨0b01#2, 7, exu, hi, lo, rnd⟩ = .ok (.format hi lo) ∧
  decode Params.spec ⟨0b10#2, 0, exu, lo, hi, rnd⟩ = .ok (.v4gen rnd) ∧
  decode Params.spec ⟨0b11#2, 0, exu, hi, lo, rnd⟩ = .ok (.v4gens rnd)

/-! ### PARSE -/

/-- R91, R131: exactly the lengths but 36 fail with WRONG_LENGTH; the response carries the length
presented and no character is looked at. -/
def Obligations.ParseRejectsEveryOtherLength : Prop :=
  (∀ (s : State) (len : Nat) (txt : Text), len ≠ 36 →
    exec (.parse len txt) s = .next (s.cycle (some (rowWrongLength len)))) ∧
  ∀ (s : State) (len n : Nat) (txt : Text),
    exec (.parse len txt) s = .next (s.cycle (some (rowWrongLength n))) → len ≠ 36 ∧ n = len

/-- R132: MISSING_SEPARATOR is raised exactly in strict mode, for a text of length 36 with a separator
position that holds no hyphen, and records the lowest such position and the character there, whatever
the digit positions hold. -/
def Obligations.ParseReportsTheLowestBadSeparator : Prop :=
  (∀ (s : State) (txt : Text) (p : Fin 36),
    s.cfg.strictHyphens = true → p ∈ sepPos → txt[p] ≠ 0x2D →
    (∀ q ∈ sepPos, q < p → txt[q] = 0x2D) →
    exec (.parse 36 txt) s = .next (s.cycle (some (rowMissingSeparator p txt[p])))) ∧
  ∀ (s : State) (len : Nat) (txt : Text) (p : Fin 36) (c : Nat),
    exec (.parse len txt) s = .next (s.cycle (some (rowMissingSeparator p c))) →
    len = 36 ∧ s.cfg.strictHyphens = true ∧ p ∈ sepPos ∧ txt[p] ≠ 0x2D ∧ c = txt[p] ∧
      ∀ q ∈ sepPos, q < p → txt[q] = 0x2D

/-- R133: ILLEGAL_HEX_DIGIT is raised exactly when the length is 36, the separator check (in strict mode)
has passed and a digit position holds an invalid character; it records the lowest such position and the
character there. -/
def Obligations.ParseReportsTheLowestIllegalDigit : Prop :=
  (∀ (s : State) (txt : Text) (p : Fin 36),
    (s.cfg.strictHyphens = true → SeparatorsOk txt) → p ∈ digitPos → hexval txt[p] = none →
    (∀ q ∈ digitPos, q < p → hexval txt[q] ≠ none) →
    exec (.parse 36 txt) s = .next (s.cycle (some (rowIllegalHexDigit p txt[p])))) ∧
  ∀ (s : State) (len : Nat) (txt : Text) (p : Fin 36) (c : Nat),
    exec (.parse len txt) s = .next (s.cycle (some (rowIllegalHexDigit p c))) →
    len = 36 ∧ (s.cfg.strictHyphens = true → SeparatorsOk txt) ∧ p ∈ digitPos ∧
      hexval txt[p] = none ∧ c = txt[p] ∧ ∀ q ∈ digitPos, q < p → hexval txt[q] ≠ none

/-- R95: each word is built from zero by "shift left 4, OR in nibble" over its 16 digits, the first 16
nibbles for `high`, the next 16 for `low`. -/
def Obligations.ParseMergesDigitsLeftToRight : Prop :=
  ∀ (s : State) (txt : Text) (v : Fin 32 → Nibble),
    (s.cfg.strictHyphens = true → SeparatorsOk txt) →
    (∀ k : Fin 32, hexval txt[posOf k] = some (v k)) →
    exec (.parse 36 txt) s = .next (s.cycle (some (rowValue
      ((List.finRange 16).foldl
        (fun w k => (w <<< 4) ||| (v ⟨k.val, by omega⟩).setWidth 64) (0#64 : BitVec 64))
      ((List.finRange 16).foldl
        (fun w k => (w <<< 4) ||| (v ⟨k.val + 16, by omega⟩).setWidth 64) (0#64 : BitVec 64)))))

/-- PARSE of an accepted text completes with the value whose nibble `k`, the slice
`U[127-4k : 124-4k]`, is the digit at position `p(k)`.  The closed form is R96's, an inference the spec
marks as its own (derived). -/
def Obligations.ParseOfAcceptedTextGivesItsValue : Prop :=
  ∀ (s : State) (txt : Text) (u : UUID),
    (s.cfg.strictHyphens = true → SeparatorsOk txt) →
    (∀ k : Fin 32, hexval txt[posOf k] = some (sliceOf u k)) →
    exec (.parse 36 txt) s = .next (s.cycle (some (rowValue u.high u.low)))

/-- Each word of PARSE's answer is, as a number, the sum of its 16 digits' values by powers of 16.  This is
R96's numeric form, an inference the spec marks as its own (derived). -/
def Obligations.ParseWordsAreTheDigitSums : Prop :=
  ∀ (s : State) (txt : Text) (v : Fin 32 → Nibble),
    (s.cfg.strictHyphens = true → SeparatorsOk txt) →
    (∀ k : Fin 32, hexval txt[posOf k] = some (v k)) →
    ∃ hi lo : Word, exec (.parse 36 txt) s = .next (s.cycle (some (rowValue hi lo))) ∧
      hi.toNat = ∑ k : Fin 16, (v ⟨k.val, by omega⟩).toNat * 16 ^ (15 - k.val) ∧
      lo.toNat = ∑ k : Fin 16, (v ⟨k.val + 16, by omega⟩).toNat * 16 ^ (15 - k.val)

/-- PARSE answers a value exactly for the accepted texts of length 36 (R90, R100; the set is R105's, an
inference the spec marks as its own), and then the digits of the text are the nibbles of the value. -/
def Obligations.ParseSucceedsExactlyOnAcceptedTexts : Prop :=
  ∀ (s : State) (len : Nat) (txt : Text),
    ((∃ hi lo, exec (.parse len txt) s = .next (s.cycle (some (rowValue hi lo)))) ↔
      len = 36 ∧ Accepted s.cfg txt) ∧
    ∀ u : UUID, exec (.parse len txt) s = .next (s.cycle (some (rowValue u.high u.low))) →
      ∀ k : Fin 32, hexval txt[posOf k] = some (sliceOf u k)

/-- R97: every PARSE answers, and either all of it succeeds (status 0, both words complete, no diagnostics)
or it fails with no bit of a value on the ports. -/
def Obligations.ParseIsAllOrNothing : Prop :=
  ∀ (s : State) (len : Nat) (txt : Text), ∃ r : Response,
    exec (.parse len txt) s = .next (s.cycle (some r)) ∧
    r.txt = Vector.replicate 36 0 ∧
    ((r.status = 0#3 ∧ r.errPos = 0#6 ∧ r.errChar = 0 ∧ r.errLen = 0 ∧
        ∀ k : Fin 32, hexval txt[posOf k] = some (sliceOf ⟨r.hi, r.lo⟩ k)) ∨
     (1 ≤ r.status.toNat ∧ r.status.toNat ≤ 3 ∧ r.hi = 0#64 ∧ r.lo = 0#64))

/-- R139: the precedence among causes. -/
def Obligations.ParseReportsCausesInOrder : Prop :=
  ∀ (s : State) (len : Nat) (txt : Text), ∃ r : Response,
    exec (.parse len txt) s = .next (s.cycle (some r)) ∧
    r.status =
      if len ≠ 36 then 1#3
      else if s.cfg.strictHyphens = true ∧ ¬ SeparatorsOk txt then 2#3
      else if ¬ DigitsOk txt then 3#3
      else 0#3

/-- R137: what each failing response records; for a missing separator or an illegal
digit the character recorded is the one at the position recorded. -/
def Obligations.DiagnosticsPointAtTheOffendingCharacter : Prop :=
  ∀ (s : State) (len : Nat) (txt : Text), ∃ r : Response,
    exec (.parse len txt) s = .next (s.cycle (some r)) ∧
    (r.status = 1#3 → r.errLen = len ∧ r.errPos = 0#6 ∧ r.errChar = 0) ∧
    (r.status = 2#3 → r.errLen = 0 ∧ ∃ p ∈ sepPos, r.errPos.toNat = p.val ∧ r.errChar = txt[p]) ∧
    (r.status = 3#3 → r.errLen = 0 ∧ ∃ p ∈ digitPos, r.errPos.toNat = p.val ∧ r.errChar = txt[p])

/-- R93: in lax mode the characters at the separator positions have no effect, MISSING_SEPARATOR is
never reported, and the length and digit checks are those of strict mode. -/
def Obligations.LaxParseIgnoresSeparators : Prop :=
  ∀ (s : State) (len : Nat) (txt txt' : Text), s.cfg.strictHyphens = false →
    (∀ p ∈ digitPos, txt[p] = txt'[p]) →
    ∃ r : Response,
      exec (.parse len txt) s = .next (s.cycle (some r)) ∧
      exec (.parse len txt') s = .next (s.cycle (some r)) ∧
      r.status ≠ 2#3 ∧
      (SeparatorsOk txt' →
        ∀ s' : State, s'.cfg.strictHyphens = true →
          exec (.parse len txt') s' = .next (s'.cycle (some r)))

/-- R98: an accepted text and any text that differs from it in the case of letters at digit positions
only get the same answer. -/
def Obligations.ParseIsCaseInsensitive : Prop :=
  ∀ (s : State) (txt txt' : Text), Accepted s.cfg txt →
    (∀ p ∈ sepPos, txt'[p] = txt[p]) →
    (∀ p ∈ digitPos,
      txt'[p] = txt[p] ∨ txt'[p] = toUpper txt[p] ∨ txt'[p] = toLower txt[p]) →
    ∃ u : UUID,
      exec (.parse 36 txt) s = .next (s.cycle (some (rowValue u.high u.low))) ∧
      exec (.parse 36 txt') s = .next (s.cycle (some (rowValue u.high u.low)))

/-- R99: replacing any single digit of an accepted text by a character outside the alphabet makes PARSE
fail, and the response points at it. -/
def Obligations.ReplacedDigitIsNeverReadAsADigit : Prop :=
  ∀ (s : State) (txt : Text) (p : Fin 36) (c : Nat),
    Accepted s.cfg txt → p ∈ digitPos → hexval c = none →
    exec (.parse 36 (txt.set p.val c p.isLt)) s
      = .next (s.cycle (some (rowIllegalHexDigit p c)))

/-- R28: a text that the host presents as it owes to, every code unit of CHAR_W bits, reaches PARSE as the
text it is when it has exactly 36 code units; any other, however long, fails with its saturated length. -/
def Obligations.PresentedTextReachesParse : Prop :=
  ∀ (s : State) (t : List Nat) (rest : Request) (later : List PortsIn),
    s.cfg.wf = true → (∀ c ∈ t, c < 2 ^ s.cfg.charW) → LanesFit s.cfg rest.txt →
    (t.length ≠ 36 →
      step { s with inputs := ⟨false, true, presentText s.cfg t rest⟩ :: later }
        = .next (State.cycle { s with inputs := later }
            (some (rowWrongLength (min t.length (2 ^ s.cfg.lenW - 1)))))) ∧
    (t.length = 36 → ∃ txt : Text, txt.toList = t ∧
      step { s with inputs := ⟨false, true, presentText s.cfg t rest⟩ :: later }
        = exec (.parse 36 txt) { s with inputs := later })

/-! ### FORMAT -/

/-- R110, R112, R115: FORMAT always completes; its text has the lowercase digit of nibble `k` at position
`p(k)` and a hyphen at each separator position, and no other code than those 17. -/
def Obligations.FormatGivesTheCanonicalText : Prop :=
  ∀ (s : State) (hi lo : Word), ∃ t : Text,
    exec (.format hi lo) s = .next (s.cycle (some (rowText t))) ∧
    (∀ k : Fin 32, t[posOf k] = hexchr (sliceOf ⟨hi, lo⟩ k)) ∧
    (∀ p ∈ sepPos, t[p] = 0x2D) ∧
    ∀ p : Fin 36, t[p] = 0x2D ∨ (0x30 ≤ t[p] ∧ t[p] ≤ 0x39) ∨ (0x61 ≤ t[p] ∧ t[p] ≤ 0x66)

/-- R114: PARSE of the text FORMAT produces returns the value, on any instance, strict or lax. -/
def Obligations.ParseOfFormatIsIdentity : Prop :=
  ∀ (s s' : State) (hi lo : Word), ∃ t : Text,
    exec (.format hi lo) s = .next (s.cycle (some (rowText t))) ∧
    exec (.parse 36 t) s' = .next (s'.cycle (some (rowValue hi lo)))

/-- FORMAT of the value of an accepted text is the text in lowercase, with a hyphen at each separator
position; in strict mode that is the text in lowercase.  This is R116, an inference the spec marks as its
own (derived). -/
def Obligations.FormatOfParseIsTheLowercaseText : Prop :=
  ∀ (s s' : State) (txt : Text), Accepted s.cfg txt →
    ∃ (hi lo : Word) (t : Text),
      exec (.parse 36 txt) s = .next (s.cycle (some (rowValue hi lo))) ∧
      exec (.format hi lo) s' = .next (s'.cycle (some (rowText t))) ∧
      (∀ p ∈ digitPos, t[p] = toLower txt[p]) ∧
      (∀ p ∈ sepPos, t[p] = 0x2D) ∧
      (s.cfg.strictHyphens = true → ∀ p : Fin 36, t[p] = toLower txt[p])

/-- FORMAT is injective, and its texts are exactly the canonical ones.  This is R117, an inference the spec
marks as its own (derived). -/
def Obligations.FormatIsInjectiveOntoCanonicalTexts : Prop :=
  (∀ (s : State) (hi lo hi' lo' : Word),
    exec (.format hi lo) s = exec (.format hi' lo') s → hi = hi' ∧ lo = lo') ∧
  ∀ (s : State) (t : Text),
    (∃ hi lo, exec (.format hi lo) s = .next (s.cycle (some (rowText t)))) ↔ Canonical t

/-! ### V4GEN and V4GENS -/

/-- R122, R123, R124: with the unit present V4GEN completes; byte 6 and byte 8 of its value have the
forced bits and keep the others, every other byte is the random byte of its number. -/
def Obligations.V4genFixesTwoBytesAndPacksTheRest : Prop :=
  ∀ (s : State) (r : Rnd), s.cfg.hasV4gen = true → ∃ u : UUID,
    exec (.v4gen r) s = .next (s.cycle (some (rowValue u.high u.low))) ∧
    byteAt u 6 = (r[6] &&& 0x0F#8) ||| 0x40#8 ∧
    (byteAt u 6).extractLsb' 4 4 = 0b0100#4 ∧
    (byteAt u 6).extractLsb' 0 4 = r[6].extractLsb' 0 4 ∧
    byteAt u 8 = (r[8] &&& 0x3F#8) ||| 0x80#8 ∧
    (byteAt u 8).extractLsb' 6 2 = 0b10#2 ∧
    (byteAt u 8).extractLsb' 0 6 = r[8].extractLsb' 0 6 ∧
    (∀ i : Fin 16, i ≠ 6 → i ≠ 8 → byteAt u i = r[i]) ∧
    (∀ i : Fin 8, u.high.extractLsb' (56 - 8 * i.val) 8 = byteAt u ⟨i.val, by omega⟩) ∧
    ∀ i : Fin 8, u.low.extractLsb' (56 - 8 * i.val) 8 = byteAt u ⟨i.val + 8, by omega⟩

/-- The word form of the fix-up, with the raw words written as sums of bytes; the six replaced bits have
no effect; the fix-up is idempotent.  This is R125, an inference the spec marks as its own (derived). -/
def Obligations.V4genInWordForm : Prop :=
  (∀ (s : State) (r : Rnd) (rawHigh rawLow : Word), s.cfg.hasV4gen = true →
    rawHigh.toNat = ∑ i : Fin 8, (r[i.val]'(by omega)).toNat * 256 ^ (7 - i.val) →
    rawLow.toNat = ∑ i : Fin 8, (r[i.val + 8]'(by omega)).toNat * 256 ^ (7 - i.val) →
    exec (.v4gen r) s = .next (s.cycle (some (rowValue
      ((rawHigh &&& 0xFFFFFFFFFFFF0FFF#64) ||| 0x0000000000004000#64)
      ((rawLow &&& 0x3FFFFFFFFFFFFFFF#64) ||| 0x8000000000000000#64))))) ∧
  (∀ (s : State) (r r' : Rnd),
    (∀ i : Fin 16, i ≠ 6 → i ≠ 8 → r[i] = r'[i]) →
    r[6].extractLsb' 0 4 = r'[6].extractLsb' 0 4 → r[8].extractLsb' 0 6 = r'[8].extractLsb' 0 6 →
    exec (.v4gen r) s = exec (.v4gen r') s) ∧
  ∀ (s : State) (r : Rnd) (u : UUID),
    exec (.v4gen r) s = .next (s.cycle (some (rowValue u.high u.low))) → s.cfg.hasV4gen = true →
    exec (.v4gen (bytesOf u)) s = .next (s.cycle (some (rowValue u.high u.low)))

/-- The version and variant fields of every generated value (R127), and where they show in the text (R67,
an inference the spec marks as its own). -/
def Obligations.GeneratedValuesCarryVersionAndVariant : Prop :=
  ∀ (s : State) (r : Rnd), s.cfg.hasV4gen = true → ∃ (u : UUID) (t : Text),
    exec (.v4gen r) s = .next (s.cycle (some (rowValue u.high u.low))) ∧
    u.high.extractLsb' 12 4 = 0b0100#4 ∧ u.low.extractLsb' 62 2 = 0b10#2 ∧
    exec (.v4gens r) s = .next (s.cycle (some (rowText t))) ∧
    t[14] = 0x34 ∧ t[19] ∈ [0x38, 0x39, 0x61, 0x62]

/-- R126: with the unit present V4GENS completes, with the text FORMAT gives for the value V4GEN
gives for the same bytes. -/
def Obligations.V4gensIsFormatOfV4gen : Prop :=
  ∀ (s : State) (r : Rnd), s.cfg.hasV4gen = true → ∃ (u : UUID) (t : Text),
    exec (.v4gen r) s = .next (s.cycle (some (rowValue u.high u.low))) ∧
    exec (.v4gens r) s = .next (s.cycle (some (rowText t))) ∧
    exec (.format u.high u.low) s = .next (s.cycle (some (rowText t)))

/-- With the unit absent both codes are answered BAD_OP, every other field zero, as R129 says the block
does.  R74 advises a model to refuse them instead: that this one answers is the model's choice, log
entry 8. -/
def Obligations.AbsentUnitAnswersBadOp : Prop :=
  ∀ (s : State) (r : Rnd), s.cfg.hasV4gen = false →
    exec (.v4gen r) s = .next (s.cycle (some rowBadOp)) ∧
    exec (.v4gens r) s = .next (s.cycle (some rowBadOp))

/-! ### One cycle -/

/-- R12: an operation's response is a function of the parameters and of its own operands, and the
operation does nothing but put it on its way. -/
def Obligations.ExecIsTheAnswerOfItsOperands : Prop :=
  ∀ (i : Instr) (s : State), exec i s = .next (s.cycle (some (answerOf s.cfg i).drive))

/-- R102, R119, and the same of V4GEN and V4GENS (R128): equal operands get equal responses whatever was
answered before or is in flight, on instances that agree on the one parameter the operation reads; PARSE
reads the text only when the length is 36. -/
def Obligations.EqualRequestsGetEqualResponses : Prop :=
  (∀ (s s' : State) (len : Nat) (txt txt' : Text),
    s.cfg.strictHyphens = s'.cfg.strictHyphens → (len = 36 → txt = txt') →
    ∃ r : Response, exec (.parse len txt) s = .next (s.cycle (some r)) ∧
      exec (.parse len txt') s' = .next (s'.cycle (some r))) ∧
  (∀ (s s' : State) (hi lo : Word),
    ∃ r : Response, exec (.format hi lo) s = .next (s.cycle (some r)) ∧
      exec (.format hi lo) s' = .next (s'.cycle (some r))) ∧
  ∀ (s s' : State) (rnd : Rnd), s.cfg.hasV4gen = s'.cfg.hasV4gen →
    (∃ r : Response, exec (.v4gen rnd) s = .next (s.cycle (some r)) ∧
      exec (.v4gen rnd) s' = .next (s'.cycle (some r))) ∧
    ∃ r : Response, exec (.v4gens rnd) s = .next (s.cycle (some r)) ∧
      exec (.v4gens rnd) s' = .next (s'.cycle (some r))

/-- R26, R70: request fields the operation does not read have no effect; the text is read only when the
length is 36. -/
def Obligations.IgnoredRequestFieldsHaveNoEffect : Prop :=
  ∀ (s : State) (q q' : Request) (later : List PortsIn),
    q.instr.WellFormed s.cfg → q'.instr.WellFormed s.cfg → q.op = q'.op →
    (q.op = 0#2 → q.txtLen = q'.txtLen ∧ (q.txtLen = 36 → q.txt = q'.txt)) →
    (q.op = 1#2 → q.hi = q'.hi ∧ q.lo = q'.lo) →
    (q.op = 2#2 ∨ q.op = 3#2 → q.rnd = q'.rnd) →
    ∃ t : State,
      step { s with inputs := ⟨false, true, q⟩ :: later } = .next t ∧
      step { s with inputs := ⟨false, true, q'⟩ :: later } = .next t

/-- The frame of PARSE, FORMAT, V4GEN and V4GENS: the parameters and the host's later inputs are
unchanged; the responses in flight keep their order and content, one new response joins behind them
and the oldest is presented (R33, R165).  The block has no register and no memory besides. -/
def Obligations.OperationsLeaveEverythingElseUnchanged : Prop :=
  ∀ (i : Instr) (s : State), ∃ (t : State) (r : Response),
    exec i s = .next t ∧ t.cfg = s.cfg ∧ t.inputs = s.inputs ∧
    t.rsp :: t.pipe = s.pipe ++ [some r]

/-- R165 for one cycle: what enters the pipeline joins at its end and its head is presented; with no
pipeline registers (LATENCY = 0) the response is presented in the same cycle. -/
def Obligations.CycleMovesResponsesInOrder : Prop :=
  ∀ (s : State) (a : Option Response),
    (s.cycle a).rsp :: (s.cycle a).pipe = s.pipe ++ [a] ∧
    (s.cycle a).cfg = s.cfg ∧ (s.cycle a).inputs = s.inputs ∧
    (s.pipe = [] → (s.cycle a).rspValid = a.isSome)

/-- A step in which a request is presented, `rst` low, is `exec` of the decoded instruction, the host's
ports having moved to their next cycle. -/
def Obligations.StepRunsTheDecodedInstruction : Prop :=
  ∀ (s : State) (q : Request) (later : List PortsIn) (i : Instr), decode s.cfg q = .ok i →
    step { s with inputs := ⟨false, true, q⟩ :: later } = exec i { s with inputs := later }

/-- R144: without a request nothing happens in the block but that what is in flight moves on, in a cycle
with `req_valid` = 0 (first clause).  The second clause, that a step with `inputs` at its end is such a
cycle, is the model's choice and no rule of the spec: log entry 3 (DESIGN CHOICE), after the last entry the
host presents nothing.  That nothing enters the pipeline is `none`, an entry whose valid bit is 0, as log
entry 4 (DEDUCED) reads it. -/
def Obligations.IdleStepOnlyMovesThePipeline : Prop :=
  (∀ (s : State) (q : Request) (later : List PortsIn), ∃ t : State,
    step { s with inputs := ⟨false, false, q⟩ :: later } = .next t ∧
    t.cfg = s.cfg ∧ t.inputs = later ∧ t.rsp :: t.pipe = s.pipe ++ [none]) ∧
  ∀ s : State, s.inputs = [] → ∃ t : State,
    step s = .next t ∧ t.cfg = s.cfg ∧ t.inputs = [] ∧ t.rsp :: t.pipe = s.pipe ++ [none]

/-- R160, R162: a cycle with `rst` = 1 accepts no request, presents no response and discards what is in
flight: but for the host's later inputs the block is in the reset state of R34. -/
def Obligations.ResetDiscardsEverythingInFlight : Prop :=
  ∀ (s : State) (v : Bool) (q : Request) (later : List PortsIn),
    step { s with inputs := ⟨true, v, q⟩ :: later }
      = .next { State.resetWith s.cfg with inputs := later }

/-- R34: after reset `rsp_valid` = 0, LATENCY pipeline valid bits are 0, the parameters are at their
build-time values; and the state the machine starts in has the values of R6.  That nothing is waiting
in `inputs` is the model's choice (log entry 3). -/
def Obligations.ResetLeavesNothingInFlight : Prop :=
  (∀ cfg : Params,
    (State.resetWith cfg).rspValid = false ∧
    (State.resetWith cfg).pipe.length = cfg.latency ∧
    (∀ a ∈ (State.resetWith cfg).pipe, a = none) ∧
    (State.resetWith cfg).cfg = cfg ∧ (State.resetWith cfg).inputs = []) ∧
  State.reset = State.resetWith Params.spec ∧
  Params.spec.charW = 8 ∧ Params.spec.lenW = 8 ∧
  Params.spec.strictHyphens = true ∧ Params.spec.hasV4gen = true

/-- R146: a step never refuses and stops only on a request that no port could carry (log entry 7);
otherwise it answers a next state. -/
def Obligations.StepIsTotalOnPresentableRequests : Prop :=
  ∀ s : State,
    (∃ t, step s = .next t) ∨
    ∃ now later e, s.inputs = now :: later ∧ now.rst = false ∧ now.reqValid = true ∧
      now.req.instr.illFormed? s.cfg = some e ∧ step s = .fault (.unpresentable e)

/-- R24: no step changes a parameter.  That the parameters stand in `cfg`, a field of State, is the model's
choice, log entry 1 (DESIGN CHOICE); that a step takes one entry off `inputs` is about the model's own list
of the host's ports and no rule of the spec, log entry 3 (DESIGN CHOICE). -/
def Obligations.NoStepChangesTheParameters : Prop :=
  ∀ s t : State, step s = .next t → t.cfg = s.cfg ∧ t.inputs = s.inputs.tail

/-! ### Invariants and runs -/

/-- The reset state meets the invariant at every legal setting of the parameters. -/
def Obligations.ResetMeetsTheInvariant : Prop :=
  State.Inv State.reset ∧ ∀ cfg : Params, cfg.wf = true → State.Inv (State.resetWith cfg)

/-- R29, R136: every step keeps the invariant: LATENCY pipeline registers, and only rows of R29's table,
fitting the response ports, in flight or presented. -/
def Obligations.EveryStepKeepsResponsesLegal : Prop :=
  ∀ s t : State, State.Inv s → step s = .next t → State.Inv t

/-- R165: with `rst` low throughout, the response channel shows what was in flight and then, LATENCY
cycles after each cycle's request, its answer, one per request and in the order of the requests; a cycle
without a request gives a cycle without a response. -/
def Obligations.StreamAnswersEachRequestInOrder : Prop :=
  ∀ (s : State) (ins : List PortsIn), s.pipe.length = s.cfg.latency →
    (∀ c ∈ ins, c.rst = false ∧ c.Presentable s.cfg) →
    outputs ins.length { s with inputs := ins }
      = (s.pipe ++ ins.map (PortsIn.answer s.cfg)).take ins.length ∧
    ∀ (j : Nat) (c : PortsIn), ins[j]? = some c → j + s.cfg.latency < ins.length →
      (outputs ins.length { s with inputs := ins })[j + s.cfg.latency]? = some (c.answer s.cfg)

/-- Once the host presents nothing, LATENCY + 1 cycles bring the block back to its reset state, whatever it
has done before.  This is R161, an inference the spec marks as its own (derived).  That `inputs = []` is a
host presenting nothing, and that the reset state's `inputs` is empty, is the model's choice, log entry 3
(DESIGN CHOICE); that an entry `none` carries no data, so that the drained state equals the reset state,
is log entry 4's reading of R34 (DEDUCED); `cfg` as a field of State is log entry 1 (DESIGN CHOICE). -/
def Obligations.DrainedBlockIsInItsResetState : Prop :=
  ∀ s : State, s.pipe.length = s.cfg.latency → s.inputs = [] →
    Host.Core.run Sys2Proof.core (s.cfg.latency + 1) s = .next (State.resetWith s.cfg)
end

