-- ==== Sys2Proof/Laws/State.lean ====
section
/-! SUPPORT. Field lemmas: what each update of the state leaves and what it writes. -/

namespace Sys2Proof.Machine

@[simp] theorem resetWith_cfg (cfg : Params) : (State.resetWith cfg).cfg = cfg := rfl
@[simp] theorem resetWith_inputs (cfg : Params) : (State.resetWith cfg).inputs = [] := rfl
@[simp] theorem resetWith_pipe (cfg : Params) :
    (State.resetWith cfg).pipe = List.replicate cfg.latency none := rfl
@[simp] theorem resetWith_rsp (cfg : Params) : (State.resetWith cfg).rsp = none := rfl

@[simp] theorem resetCycle_cfg (s : State) : s.resetCycle.cfg = s.cfg := rfl
@[simp] theorem resetCycle_inputs (s : State) : s.resetCycle.inputs = s.inputs := rfl
@[simp] theorem resetCycle_pipe (s : State) :
    s.resetCycle.pipe = List.replicate s.cfg.latency none := rfl
@[simp] theorem resetCycle_rsp (s : State) : s.resetCycle.rsp = none := rfl

@[simp] theorem cycle_cfg (s : State) (a : Option Response) : (s.cycle a).cfg = s.cfg := by
  unfold State.cycle; split <;> rfl
@[simp] theorem cycle_inputs (s : State) (a : Option Response) :
    (s.cycle a).inputs = s.inputs := by
  unfold State.cycle; split <;> rfl

/-- The response channel followed by the pipeline is the old pipeline with the new entry at its end
(R165): the one fact that fixes `cycle`'s two other fields. -/
theorem cycle_rsp_pipe (s : State) (a : Option Response) :
    (s.cycle a).rsp :: (s.cycle a).pipe = s.pipe ++ [a] := by
  unfold State.cycle; split <;> simp_all

@[simp] theorem cycle_pipe_length (s : State) (a : Option Response) :
    (s.cycle a).pipe.length = s.pipe.length := by
  have h := congrArg List.length (cycle_rsp_pipe s a)
  simpa using h

@[simp] theorem accept_cfg (s : State) (a : Answer) : (s.accept a).cfg = s.cfg := cycle_cfg s _
@[simp] theorem accept_inputs (s : State) (a : Answer) : (s.accept a).inputs = s.inputs :=
  cycle_inputs s _

@[simp] theorem withFetchWord_cfg (s : State) (n w : Nat) : (s.withFetchWord n w).cfg = s.cfg := rfl
@[simp] theorem withFetchWord_pipe (s : State) (n w : Nat) :
    (s.withFetchWord n w).pipe = s.pipe := rfl
@[simp] theorem withFetchWord_rsp (s : State) (n w : Nat) : (s.withFetchWord n w).rsp = s.rsp := rfl

/-- Two responses that enter the same pipeline are told apart by the state after. -/
theorem cycle_injective (s : State) {a b : Option Response} (h : s.cycle a = s.cycle b) : a = b := by
  have h' := cycle_rsp_pipe s a
  rw [h, cycle_rsp_pipe s b] at h'
  simpa using h'.symm

end Sys2Proof.Machine
end

