-- ==== Sys2Proof/Laws/Ops.lean ====
section
/-! SUPPORT. One lemma per shared operation and per meaning: everything it can do. -/

namespace Sys2Proof.Machine

@[simp] theorem drive_value (u : UUID) : (Answer.value u).drive = rowValue u.high u.low := rfl
@[simp] theorem drive_text (t : Text) : (Answer.text t).drive = rowText t := rfl
@[simp] theorem drive_wrongLength (n : Nat) :
    (Answer.invalidFormat (.wrongLength n)).drive = rowWrongLength n := rfl
@[simp] theorem drive_missingSeparator (p : Fin 36) (c : Nat) :
    (Answer.invalidFormat (.missingSeparator p c)).drive = rowMissingSeparator p c := rfl
@[simp] theorem drive_illegalHexDigit (p : Fin 36) (c : Nat) :
    (Answer.invalidFormat (.illegalHexDigit p c)).drive = rowIllegalHexDigit p c := rfl
@[simp] theorem drive_badOp : Answer.badOp.drive = rowBadOp := rfl

theorem execParse_eq (len : Nat) (txt : Text) (s : State) :
    execParse len txt s = .next (s.cycle (some (parseAnswer s.cfg len txt).drive)) := rfl
theorem execFormat_eq (hi lo : Word) (s : State) :
    execFormat hi lo s = .next (s.cycle (some (rowText (formatText ⟨hi, lo⟩)))) := rfl
theorem execV4gen_eq (rnd : Rnd) (s : State) :
    execV4gen rnd s = .next (s.cycle (some (ifV4gen s.cfg (.value (v4fix rnd))).drive)) := rfl
theorem execV4gens_eq (rnd : Rnd) (s : State) :
    execV4gens rnd s = .next (s.cycle (some (ifV4gen s.cfg (.text (formatText (v4fix rnd)))).drive)) :=
  rfl

@[simp] theorem ifV4gen_present {cfg : Params} (h : cfg.hasV4gen = true) (a : Answer) :
    ifV4gen cfg a = a := by simp [ifV4gen, h]
@[simp] theorem ifV4gen_absent {cfg : Params} (h : cfg.hasV4gen = false) (a : Answer) :
    ifV4gen cfg a = .badOp := by simp [ifV4gen, h]

/-- A run of one step more, where that first step answers a next state. -/
theorem run_of_step {M : Host.Core} {s t : M.State} (h : M.step s = .next t) (n : Nat) :
    M.run (n + 1) s = M.run n t := by
  rw [Host.Core.run, h]

/-- What the decoder can answer: the selected operation, well formed, or the check it breaks. -/
theorem decode_cases (cfg : Params) (q : Request) :
    (q.instr.illFormed? cfg = none ∧ decode cfg q = .ok q.instr) ∨
      ∃ e, q.instr.illFormed? cfg = some e ∧ decode cfg q = .error e := by
  unfold decode
  cases h : q.instr.illFormed? cfg <;> simp

/-- What one step can do: an idle cycle, a reset cycle, or an accepted request performed. -/
theorem step_cases {s t : State} (h : step s = .next t) :
    (s.inputs = [] ∧ t = s.cycle none) ∨
    ∃ now later, s.inputs = now :: later ∧
      ((now.rst = true ∧ t = State.resetCycle { s with inputs := later }) ∨
       (now.rst = false ∧ now.reqValid = false ∧ t = State.cycle { s with inputs := later } none) ∨
       (now.rst = false ∧ now.reqValid = true ∧ now.req.instr.illFormed? s.cfg = none ∧
          exec now.req.instr { s with inputs := later } = .next t)) := by
  unfold step at h
  split at h
  · next hs => exact .inl ⟨hs, by simpa using h.symm⟩
  · next now later hs =>
    refine .inr ⟨now, later, hs, ?_⟩
    split at h
    · next hr => exact .inl ⟨hr, by simpa using h.symm⟩
    · next hr =>
      split at h
      · next hv =>
        obtain ⟨hw, hd⟩ | ⟨e, -, hd⟩ := decode_cases s.cfg now.req
        · exact .inr (.inr ⟨by simpa using hr, hv, hw, by simpa [hd] using h⟩)
        · simp [hd] at h
      · next hv => exact .inr (.inl ⟨by simpa using hr, by simpa using hv, by simpa using h.symm⟩)

/-- The assembly stops only at a position it was given, and there the character is invalid. -/
theorem assemble_error {t : Text} {ps : List (Fin 36)} {w : Word} {p : Fin 36}
    (h : assemble t ps w = .error p) : p ∈ ps ∧ hexval t[p] = none := by
  induction ps generalizing w with
  | nil => simp [assemble] at h
  | cons q qs ih =>
    unfold assemble at h
    split at h
    · next hq => cases h; exact ⟨by simp, hq⟩
    · next v hq => exact ⟨by simp [(ih h).1], (ih h).2⟩

/-- The assembly completes only over digits. -/
theorem assemble_ok {t : Text} {ps : List (Fin 36)} {w w' : Word}
    (h : assemble t ps w = .ok w') : ∀ p ∈ ps, (hexval t[p]).isSome = true := by
  induction ps generalizing w with
  | nil => simp
  | cons q qs ih =>
    unfold assemble at h
    split at h
    · cases h
    · next v hq => exact List.forall_mem_cons.mpr ⟨by rw [hq]; rfl, ih h⟩

/-- The separator found bad is a separator, and holds no hyphen. -/
theorem badSeparator_some {t : Text} {p : Fin 36} (h : badSeparator? t = some p) :
    p ∈ sepPos ∧ t[p] ≠ 0x2D := by
  unfold badSeparator? at h
  exact ⟨List.mem_of_find?_eq_some h, by simpa [hyphen] using List.find?_some h⟩

/-- No bad separator is found exactly where every separator holds the hyphen. -/
theorem badSeparator_none {t : Text} : badSeparator? t = none ↔ SeparatorsOk t := by
  simp [badSeparator?, hyphen, SeparatorsOk]

end Sys2Proof.Machine
end

