-- ==== Sys2Proof/Laws/PerInstr.lean ====
section
/-! SUPPORT. The family EncodedOp: what the encoder writes for each instruction (spec/30_encoding.md
R71). -/

namespace Sys2Proof.Laws

/-- The encoder gives `req_op` the instruction's code of R71, which the decoder reads back. -/
def EncodedOp.Statement (i : Instr) : Prop := (encode i).op = i.op ∧ (encode i).instr.op = i.op

theorem EncodedOp.parse (len : Nat) (txt : Text) : EncodedOp.Statement (.parse len txt) := ⟨rfl, rfl⟩
theorem EncodedOp.format (hi lo : Word) : EncodedOp.Statement (.format hi lo) := ⟨rfl, rfl⟩
theorem EncodedOp.v4gen (rnd : Rnd) : EncodedOp.Statement (.v4gen rnd) := ⟨rfl, rfl⟩
theorem EncodedOp.v4gens (rnd : Rnd) : EncodedOp.Statement (.v4gens rnd) := ⟨rfl, rfl⟩

end Sys2Proof.Laws
end

