-- ==== Sys2Proof/Tests/Slice0.lean ====
section
/-! SUPPORT. Small tests and witnesses.  Expected results are those of spec/95_test_vectors.md (S1, T…)
or the encodings of spec/30_encoding.md; each theorem names its source. -/

namespace Sys2Proof.Tests

open Sys2Proof Sys2Proof.Machine

/-! ### Helpers -/

/-- A text from its codes, as spec/95_test_vectors.md lists them. -/
def textOf (cs : List Nat) : Text := Vector.ofFn fun p : Fin 36 => cs.getD p.val 0

/-- Random bytes from a list. -/
def rndOf (bs : List Nat) : Rnd := Vector.ofFn fun i : Fin 16 => BitVec.ofNat 8 (bs.getD i.val 0)

/-- EX of spec/95_test_vectors.md. -/
def ex : Text := textOf [0x31, 0x32, 0x33, 0x65, 0x34, 0x35, 0x36, 0x37, 0x2d, 0x65, 0x38, 0x39, 0x62, 0x2d,
  0x31, 0x32, 0x64, 0x33, 0x2d, 0x61, 0x34, 0x35, 0x36, 0x2d, 0x34, 0x32, 0x36, 0x36, 0x31, 0x34, 0x31, 0x37,
  0x34, 0x30, 0x30, 0x30]

/-- EXU of spec/95_test_vectors.md. -/
def exu : Text := textOf [0x31, 0x32, 0x33, 0x45, 0x34, 0x35, 0x36, 0x37, 0x2d, 0x45, 0x38, 0x39, 0x42, 0x2d,
  0x31, 0x32, 0x44, 0x33, 0x2d, 0x41, 0x34, 0x35, 0x36, 0x2d, 0x34, 0x32, 0x36, 0x36, 0x31, 0x34, 0x31, 0x37,
  0x34, 0x30, 0x30, 0x30]

/-- The text of T23: EX with other characters at the separator positions. -/
def exT23 : Text := ((((ex.set 8 0x58).set 13 0x5a).set 18 0x00).set 23 0xff)

/-- The text of T28: a bad digit at 2 and a bad separator at 13. -/
def exT28 : Text := (ex.set 2 0x78).set 13 0x30

/-- The value of EX (S1). -/
def exValue : UUID := ⟨0x123e4567e89b12d3#64, 0xa456426614174000#64⟩

/-- The bytes of T64 and P2. -/
def bytesT64 : Rnd := rndOf [0xff, 0xee, 0xdd, 0xcc, 0xbb, 0xaa, 0x99, 0x88, 0x77, 0x66, 0x55, 0x44, 0x33,
  0x22, 0x11, 0x00]

/-- A strict instance that answers in the same cycle. -/
def strict : State := State.resetWith ⟨8, 8, true, true, 0⟩

/-- A lax instance of 16-bit code units, with the generation unit left out and two pipeline registers. -/
def lax : State := State.resetWith ⟨16, 6, false, false, 2⟩

/-- The response an outcome presents. -/
def shown : Host.Outcome State Fault Refusal → Option Response
  | .next t => t.rsp
  | .fault _ => none
  | .refused _ => none

/-- Whether an outcome is a next state. -/
def isNext : Host.Outcome State Fault Refusal → Bool
  | .next _ => true
  | .fault _ => false
  | .refused _ => false

/-! ### WellFormed: one ill-formed term per check, and the widest well-formed one (R25) -/

theorem test_illformed_length : (Instr.parse 256 ex).illFormed? strict.cfg = some .lengthTooWide := by
  decide
theorem test_illformed_lane :
    (Instr.parse 36 (ex.set 35 256)).illFormed? strict.cfg = some .laneTooWide := by decide
theorem test_wellformed_widest : (Instr.parse 255 (ex.set 35 255)).WellFormed strict.cfg := by decide
theorem test_params_wf :
    strict.cfg.wf = true ∧ lax.cfg.wf = true ∧ Params.wf ⟨7, 8, true, true, 0⟩ = false ∧
      Params.wf ⟨8, 5, true, true, 0⟩ = false := by decide

/-! ### Decode: the requests of spec/95_test_vectors.md part 3, port by port -/

theorem test_decode_parse_P1 :
    (⟨0b00#2, 0x24, exu, 0, 0, rndOf []⟩ : Request).instr = .parse 36 exu := by decide
theorem test_decode_format_P1 :
    (⟨0b01#2, 0, textOf [], 0x123e4567e89b12d3#64, 0xa456426614174000#64, rndOf []⟩ : Request).instr
      = .format 0x123e4567e89b12d3#64 0xa456426614174000#64 := by decide
theorem test_decode_v4gen_P2 :
    (⟨0b10#2, 0, textOf [], 0, 0, bytesT64⟩ : Request).instr = .v4gen bytesT64 := by decide
theorem test_decode_v4gens_P2 :
    (⟨0b11#2, 0, textOf [], 0, 0, bytesT64⟩ : Request).instr = .v4gens bytesT64 := by decide
/-- The codes of spec/opcode_table.json, every operand bit 0. -/
theorem test_decode_table_words :
    decodeTableWord 8 0 = some (.parse 0 (textOf [])) ∧ decodeTableWord 8 1 = some (.format 0 0) ∧
    decodeTableWord 8 2 = some (.v4gen (rndOf [])) ∧ decodeTableWord 8 3 = some (.v4gens (rndOf [])) := by
  decide
/-- Each table word runs as the first instruction after reset. -/
theorem test_step_runs_table_words :
    isNext (step (State.reset.withFetchWord 8 0)) = true ∧
    isNext (step (State.reset.withFetchWord 8 1)) = true ∧
    isNext (step (State.reset.withFetchWord 8 2)) = true ∧
    isNext (step (State.reset.withFetchWord 8 3)) = true := by decide

/-! ### One step each (spec/95_test_vectors.md part 2) -/

theorem test_parse_T4 : shown (exec (.parse 36 (textOf [0x61, 0x41, 0x62, 0x42, 0x63, 0x43, 0x64, 0x44, 0x2d,
    0x65, 0x45, 0x66, 0x46, 0x2d, 0x30, 0x61, 0x31, 0x42, 0x2d, 0x39, 0x63, 0x38, 0x64, 0x2d, 0x37, 0x65, 0x36,
    0x46, 0x35, 0x61, 0x34, 0x42, 0x33, 0x63, 0x32, 0x44])) strict)
    = some (rowValue 0xaabbccddeeff0a1b#64 0x9c8d7e6f5a4b3c2d#64) := by decide
theorem test_parse_T28_strict :
    shown (exec (.parse 36 exT28) strict) = some (rowMissingSeparator 13 0x30) := by decide
theorem test_format_T33 : (shown (exec (.format 0x0123456789abcdef#64 0xfedcba9876543210#64) strict)).map (·.txt)
    = some (textOf [0x30, 0x31, 0x32, 0x33, 0x34, 0x35, 0x36, 0x37, 0x2d, 0x38, 0x39, 0x61, 0x62, 0x2d, 0x63,
      0x64, 0x65, 0x66, 0x2d, 0x66, 0x65, 0x64, 0x63, 0x2d, 0x62, 0x61, 0x39, 0x38, 0x37, 0x36, 0x35, 0x34, 0x33,
      0x32, 0x31, 0x30]) := by decide
theorem test_format_T30 : shown (exec (.format exValue.high exValue.low) strict) = some (rowText ex) := by
  decide
theorem test_v4gen_T64 : shown (exec (.v4gen bytesT64) strict)
    = some (rowValue 0xffeeddccbbaa4988#64 0xb766554433221100#64) := by decide
theorem test_v4gen_T60 : shown (exec (.v4gen (rndOf [])) strict)
    = some (rowValue 0x0000000000004000#64 0x8000000000000000#64) := by decide
theorem test_v4gens_P2 : shown (exec (.v4gens bytesT64) strict)
    = some (rowText (textOf [0x66, 0x66, 0x65, 0x65, 0x64, 0x64, 0x63, 0x63, 0x2d, 0x62, 0x62, 0x61, 0x61,
      0x2d, 0x34, 0x39, 0x38, 0x38, 0x2d, 0x62, 0x37, 0x36, 0x36, 0x2d, 0x35, 0x35, 0x34, 0x34, 0x33, 0x33,
      0x32, 0x32, 0x31, 0x31, 0x30, 0x30])) := by decide
/-- P5, cycle 4: `rst` = 1 while a response is due. -/
theorem test_reset_cycle_P5 :
    shown (step ⟨⟨8, 8, true, true, 2⟩, [⟨true, true, Request.blank 0#2⟩],
      [some (rowWrongLength 3), some (rowValue 0x4000#64 0x8000000000000000#64)], none⟩) = none := by decide

/-! ### Witnesses: a state and operands that meet the hypotheses of each statement that has some -/

theorem witness_HexvalHoldsExactlyTheTwentyTwoDigits :
    (8 : Nat) ≤ 8 ∧ hexval 0x30 = some 0#4 ∧ hexval 0x46 = some 15#4 ∧ hexval 0x66 = some 15#4 ∧
      hexval 0x2F = none ∧ hexval 0x67 = none := by decide
theorem witness_HexchrIsLowercaseAndHexvalInvertsIt :
    (9#4 : Nibble).toNat ≤ 9 ∧ 10 ≤ (10#4 : Nibble).toNat := by decide
theorem witness_NibblePositionsAreInverse :
    (35 : Fin 36) ∈ digitPos ∧ (0 : Fin 32) < 31 := by decide
theorem witness_NibbleExtractionIsItsSlice : (15 : Fin 32).val ≤ 15 ∧ 16 ≤ (16 : Fin 32).val := by decide
theorem witness_FlatPackingPlacesEveryLane : LanesFit strict.cfg (ex.set 35 255) := by decide
theorem witness_OpcodesSelectTheOperations :
    (Request.blank 0#2).op = 0#2 ∧ 255 < 2 ^ strict.cfg.lenW ∧ LanesFit strict.cfg ex ∧
      (Request.blank 1#2).op = 1#2 ∧ (Request.blank 2#2).op = 2#2 ∧ (Request.blank 3#2).op = 3#2 := by decide
theorem witness_DecodeRejectsExactlyTheUnpresentable :
    (2 ^ strict.cfg.lenW ≤ 256 ∧ ¬ LanesFit strict.cfg (ex.set 0 256)) ∧ LanesFit strict.cfg ex := by decide
theorem witness_DecodeOfEncodeIsIdentity :
    (Instr.parse 255 ex).WellFormed strict.cfg ∧ (Instr.v4gens bytesT64).WellFormed strict.cfg := by decide
theorem witness_ParseRejectsEveryOtherLength : (35 : Nat) ≠ 36 ∧ (37 : Nat) ≠ 36 := by decide
/-- The second clause's hypothesis is met by the first clause's conclusion. -/
theorem witness_ParseRejectsEveryOtherLength_converse :
    exec (.parse 35 ex) strict = .next (strict.cycle (some (rowWrongLength 35))) := rfl
/-- T28 (position 13) and T25 (position 23). -/
theorem witness_ParseReportsTheLowestBadSeparator :
    (strict.cfg.strictHyphens = true ∧ (13 : Fin 36) ∈ sepPos ∧ exT28[(13 : Fin 36)] ≠ 0x2D ∧
      ∀ q ∈ sepPos, q < 13 → exT28[q] = 0x2D) ∧
    ((23 : Fin 36) ∈ sepPos ∧ (ex.set 23 0x30)[(23 : Fin 36)] ≠ 0x2D ∧
      ∀ q ∈ sepPos, q < 23 → (ex.set 23 0x30)[q] = 0x2D) := by decide
theorem witness_ParseReportsTheLowestBadSeparator_converse :
    exec (.parse 36 exT28) strict = .next (strict.cycle (some (rowMissingSeparator 13 0x30))) := rfl
/-- T40 (position 0) and T41 (position 35); T28 lax (position 2). -/
theorem witness_ParseReportsTheLowestIllegalDigit :
    (SeparatorsOk (ex.set 0 0x78) ∧ (0 : Fin 36) ∈ digitPos ∧ hexval (ex.set 0 0x78)[(0 : Fin 36)] = none) ∧
    (SeparatorsOk (ex.set 35 0x67) ∧ (35 : Fin 36) ∈ digitPos ∧
      hexval (ex.set 35 0x67)[(35 : Fin 36)] = none ∧
      ∀ q ∈ digitPos, q < 35 → hexval (ex.set 35 0x67)[q] ≠ none) ∧
    (lax.cfg.strictHyphens = false ∧ hexval exT28[(2 : Fin 36)] = none) := by decide
theorem witness_ParseReportsTheLowestIllegalDigit_converse :
    exec (.parse 36 exT28) lax = .next (lax.cycle (some (rowIllegalHexDigit 2 0x78))) := rfl
/-- S1 and T2: the hypotheses of ParseMergesDigitsLeftToRight, ParseOfAcceptedTextGivesItsValue and
ParseWordsAreTheDigitSums. -/
theorem witness_ParseOfAcceptedTextGivesItsValue :
    SeparatorsOk ex ∧ (∀ k : Fin 32, hexval ex[posOf k] = some (sliceOf exValue k)) ∧
      ∀ k : Fin 32, hexval exu[posOf k] = some (sliceOf exValue k) := by decide
theorem witness_ParseSucceedsExactlyOnAcceptedTexts :
    exec (.parse 36 ex) strict = .next (strict.cycle (some (rowValue exValue.high exValue.low))) ∧
      Accepted strict.cfg ex := ⟨rfl, by decide⟩
theorem witness_LaxParseIgnoresSeparators :
    lax.cfg.strictHyphens = false ∧ (∀ p ∈ digitPos, exT23[p] = ex[p]) ∧ SeparatorsOk ex ∧
      strict.cfg.strictHyphens = true := by decide
theorem witness_ParseIsCaseInsensitive :
    Accepted strict.cfg ex ∧ (∀ p ∈ sepPos, exu[p] = ex[p]) ∧
      ∀ p ∈ digitPos, exu[p] = ex[p] ∨ exu[p] = toUpper ex[p] ∨ exu[p] = toLower ex[p] := by decide
/-- T51: 0xb0, `0` with bit 7 set. -/
theorem witness_ReplacedDigitIsNeverReadAsADigit :
    Accepted strict.cfg ex ∧ (4 : Fin 36) ∈ digitPos ∧ hexval 0xb0 = none := by decide
/-- Lengths 0, 36 and 300 (T18). -/
theorem witness_PresentedTextReachesParse :
    strict.cfg.wf = true ∧ LanesFit strict.cfg (Request.blank 0#2).txt ∧
      (∀ c ∈ ex.toList, c < 2 ^ strict.cfg.charW) ∧ ex.toList.length = 36 ∧
      ([] : List Nat).length ≠ 36 ∧ (List.replicate 300 0x30).length ≠ 36 ∧
      ∀ c ∈ List.replicate 300 0x30, c < 2 ^ strict.cfg.charW :=
  ⟨rfl, by decide, by decide, by decide, by decide, by rw [List.length_replicate]; decide, by
    intro c hc; rw [List.eq_of_mem_replicate hc]; decide⟩
theorem witness_FormatOfParseIsTheLowercaseText : Accepted strict.cfg exu ∧ Accepted lax.cfg exT23 := by
  decide
theorem witness_FormatIsInjectiveOntoCanonicalTexts : Canonical ex ∧ ¬ Canonical exu := by decide
/-- The hypothesis of the V4GEN and V4GENS statements, and of AbsentUnitAnswersBadOp. -/
theorem witness_V4gen_unit : strict.cfg.hasV4gen = true ∧ lax.cfg.hasV4gen = false := by decide
/-- T60 and T65: the six replaced bits; T62's raw words. -/
theorem witness_V4genInWordForm :
    ((∀ i : Fin 16, i ≠ 6 → i ≠ 8 →
        (rndOf [])[i] = (rndOf [0, 0, 0, 0, 0, 0, 0xf0, 0, 0xc0])[i]) ∧
      (rndOf [])[6].extractLsb' 0 4 = (rndOf [0, 0, 0, 0, 0, 0, 0xf0, 0, 0xc0])[6].extractLsb' 0 4 ∧
      (rndOf [])[8].extractLsb' 0 6 = (rndOf [0, 0, 0, 0, 0, 0, 0xf0, 0, 0xc0])[8].extractLsb' 0 6) ∧
    ((0xffeeddccbbaa9988#64 : Word).toNat
        = ∑ i : Fin 8, (bytesT64[i.val]'(by omega)).toNat * 256 ^ (7 - i.val) ∧
      (0x7766554433221100#64 : Word).toNat
        = ∑ i : Fin 8, (bytesT64[i.val + 8]'(by omega)).toNat * 256 ^ (7 - i.val)) := by decide
/-- The third clause of V4genInWordForm. -/
theorem witness_V4genInWordForm_result : exec (.v4gen bytesT64) strict
    = .next (strict.cycle (some (rowValue 0xffeeddccbbaa4988#64 0xb766554433221100#64))) := rfl
theorem witness_EqualRequestsGetEqualResponses :
    strict.cfg.strictHyphens = (State.resetWith ⟨16, 8, true, true, 1⟩).cfg.strictHyphens ∧
      ((35 : Nat) = 36 → ex = exu) ∧ ((36 : Nat) = 36 → ex = ex) ∧
      strict.cfg.hasV4gen = (State.resetWith ⟨16, 8, true, true, 1⟩).cfg.hasV4gen := by decide
/-- One pair of requests per operation, each pair different in a field that is not read. -/
theorem witness_IgnoredRequestFieldsHaveNoEffect :
    ((⟨0#2, 35, ex, 0, 0, rndOf []⟩ : Request).instr.WellFormed strict.cfg ∧
      (⟨0#2, 35, exu, 1, 1, bytesT64⟩ : Request).instr.WellFormed strict.cfg ∧ ((35 : Nat) = 36 → ex = exu)) ∧
    ((⟨1#2, 0, ex, 5, 6, rndOf []⟩ : Request).instr.WellFormed strict.cfg ∧
      (⟨1#2, 300, exu, 5, 6, bytesT64⟩ : Request).instr.WellFormed strict.cfg) ∧
    ((⟨3#2, 0, ex, 5, 6, bytesT64⟩ : Request).instr.WellFormed strict.cfg ∧
      (⟨3#2, 300, exu, 7, 8, bytesT64⟩ : Request).instr.WellFormed strict.cfg) := by decide
theorem witness_CycleMovesResponsesInOrder : strict.pipe = [] := rfl
theorem witness_StepRunsTheDecodedInstruction :
    decode lax.cfg ⟨0#2, 36, ex, 0, 0, rndOf []⟩ = .ok (.parse 36 ex) := rfl
theorem witness_IdleStepOnlyMovesThePipeline : lax.inputs = [] := rfl

/-- A lax instance with a request presented. -/
def laxAsked : State := { lax with inputs := [⟨false, true, ⟨0#2, 36, exT23, 0, 0, rndOf []⟩⟩] }

/-- The hypotheses of NoStepChangesTheParameters and EveryStepKeepsResponsesLegal: a state that meets
the invariant and takes a step. -/
theorem witness_EveryStepKeepsResponsesLegal :
    State.Inv laxAsked ∧ ∃ t, step laxAsked = .next t :=
  ⟨⟨rfl, rfl, by simp [laxAsked, lax, State.resetWith], by simp [laxAsked, lax, State.resetWith]⟩, _, rfl⟩
theorem witness_ResetMeetsTheInvariant : Params.wf ⟨16, 6, false, false, 2⟩ = true := by decide
theorem witness_StreamAnswersEachRequestInOrder :
    laxAsked.pipe.length = laxAsked.cfg.latency ∧
      ∀ c ∈ laxAsked.inputs ++ [⟨false, false, Request.blank 3#2⟩],
        c.rst = false ∧ c.Presentable laxAsked.cfg := by decide
theorem witness_DrainedBlockIsInItsResetState :
    lax.pipe.length = lax.cfg.latency ∧ lax.inputs = [] := by decide

end Sys2Proof.Tests
end

/-! ### Lookup tables and flat packing (spec/20_memory.md R41, R45, R46) -/

namespace Sys2Proof.Machine

/-! #### HEXVAL (R41) -/

/-- A nibble made from a number below 16 is told by its value. -/
theorem some_ofNat_eq_some_iff {n : Nat} (hn : n < 16) (v : Nibble) :
    some (BitVec.ofNat 4 n) = some v ↔ v.toNat = n := by
  rw [Option.some_inj, BitVec.toNat_eq, BitVec.toNat_ofNat, Nat.mod_eq_of_lt hn, eq_comm]

/-- R41: the three ranges of valid characters and their values. -/
theorem hexval_eq_some_iff (c : Nat) (v : Nibble) :
    hexval c = some v ↔
      (0x30 ≤ c ∧ c ≤ 0x39 ∧ v.toNat = c - 0x30) ∨
      (0x41 ≤ c ∧ c ≤ 0x46 ∧ v.toNat = c - 0x37) ∨
      (0x61 ≤ c ∧ c ≤ 0x66 ∧ v.toNat = c - 0x57) := by
  unfold hexval
  split_ifs with hdigit hupper hlower
  · rw [some_ofNat_eq_some_iff (by omega)]; omega
  · rw [some_ofNat_eq_some_iff (by omega)]; omega
  · rw [some_ofNat_eq_some_iff (by omega)]; omega
  · simp only [false_iff]; omega

/-- Past the code of `f` every code unit is invalid. -/
theorem hexval_eq_none_of_gt {c : Nat} (hc : 0x66 < c) : hexval c = none := by
  rw [Option.eq_none_iff_forall_ne_some]
  intro v hv
  rw [hexval_eq_some_iff] at hv
  omega

/-- Every table that reaches the code of `f` has 22 valid entries: those up to `f` are counted, those
past it are invalid. -/
theorem count_valid_hexval {n : Nat} (hn : 0x67 ≤ n) :
    ((List.range n).filter fun c => (hexval c).isSome).length = 22 := by
  obtain ⟨m, rfl⟩ := Nat.exists_eq_add_of_le hn
  have hlow : ((List.range 0x67).filter fun c => (hexval c).isSome).length = 22 := by decide
  have hhigh : ((List.range m).map (0x67 + ·)).filter (fun c => (hexval c).isSome) = [] := by
    simp only [List.filter_eq_nil_iff, List.forall_mem_map]
    intro k _
    simp [hexval_eq_none_of_gt (c := 0x67 + k) (by omega)]
  rw [List.range_add, List.filter_append, hhigh, List.append_nil, hlow]

/-! #### Lanes in one number (R46) -/

theorem packLanes_append (b : Nat) (xs ys : List Nat) :
    packLanes b (xs ++ ys) = packLanes b xs * b ^ ys.length + packLanes b ys := by
  induction xs with
  | nil => simp [packLanes]
  | cons x xs ih => simp only [List.cons_append, packLanes, ih, List.length_append]; ring

theorem packLanes_lt {b : Nat} {cs : List Nat} (hcs : ∀ c ∈ cs, c < b) :
    packLanes b cs < b ^ cs.length := by
  induction cs with
  | nil => simp [packLanes]
  | cons c cs ih =>
    obtain ⟨hc, hcs⟩ := List.forall_mem_cons.mp hcs
    calc c * b ^ cs.length + packLanes b cs
        < (c + 1) * b ^ cs.length := by rw [Nat.succ_mul]; exact Nat.add_lt_add_left (ih hcs) _
      _ ≤ b * b ^ cs.length := Nat.mul_le_mul_right _ hc
      _ = b ^ (c :: cs).length := by rw [List.length_cons, Nat.pow_succ']

/-- Reading lane `p` of packed lanes gives the lane packed there: the lanes before it are a multiple of
`b` at its place, and those after it stay below its place. -/
theorem laneOf_packLanes {b : Nat} {cs : List Nat} (hcs : ∀ c ∈ cs, c < b) {p : Nat}
    (hp : p < cs.length) : laneOf b cs.length (packLanes b cs) p = cs[p] := by
  have hb : 0 < b := Nat.zero_lt_of_lt (hcs _ (List.getElem_mem hp))
  have hafter : packLanes b (cs.drop (p + 1)) < b ^ (cs.drop (p + 1)).length :=
    packLanes_lt fun c hc => hcs c (List.mem_of_mem_drop hc)
  have hsplit : cs = cs.take p ++ cs[p] :: cs.drop (p + 1) := by simp
  have hplace : cs.length - 1 - p = (cs.drop (p + 1)).length := by rw [List.length_drop]; omega
  have hpack : packLanes b cs =
      packLanes b (cs.drop (p + 1))
        + (cs[p] + packLanes b (cs.take p) * b) * b ^ (cs.drop (p + 1)).length := by
    conv_lhs => rw [hsplit, packLanes_append]
    simp only [packLanes, List.length_cons]
    ring
  rw [laneOf, hplace, hpack, Nat.add_mul_div_right _ _ (Nat.pow_pos hb), Nat.div_eq_of_lt hafter,
    Nat.zero_add, Nat.add_mul_mod_self_right, Nat.mod_eq_of_lt (hcs _ (List.getElem_mem hp))]

/-- Lane `p` of a text whose lanes fit, read from its flat bus. -/
theorem laneOf_flatText {cfg : Params} {t : Text} (hfit : LanesFit cfg t) (p : Fin 36) :
    laneOf (2 ^ cfg.charW) 36 (flatText cfg t) p.val = t[p] := by
  have hlanes : ∀ c ∈ t.toList, c < 2 ^ cfg.charW := by
    intro c hc
    obtain ⟨i, hi, rfl⟩ := Vector.mem_iff_getElem.mp (Vector.mem_toList_iff.mp hc)
    exact hfit ⟨i, hi⟩
  simpa [flatText] using laneOf_packLanes hlanes (p := p.val) (by simp)

theorem forall_mem_map_toNat_lt (bs : List Byte) : ∀ n ∈ bs.map (·.toNat), n < 256 := by
  simp only [List.forall_mem_map]
  exact fun b _ => b.isLt

/-- Byte `i` of the random bytes, read from their flat bus. -/
theorem laneOf_flatRnd (r : Rnd) (i : Fin 16) :
    laneOf 256 16 (flatRnd r) i.val = r[i].toNat := by
  simpa [flatRnd] using
    laneOf_packLanes (forall_mem_map_toNat_lt r.toList) (p := i.val) (by simp)

/-! #### Bytes big-endian in a word (R45) -/

theorem mergeByte_toNat (w : Word) (b : Byte) :
    (mergeByte w b).toNat = (w.toNat * 256 + b.toNat) % 2 ^ 64 := by
  have hshift : (w <<< 8).toNat = (w.toNat % 2 ^ 56) <<< 8 := by
    rw [BitVec.toNat_shiftLeft, Nat.shiftLeft_eq, Nat.shiftLeft_eq]; omega
  rw [mergeByte, BitVec.toNat_or, hshift, BitVec.toNat_setWidth_of_le (by decide),
    ← Nat.shiftLeft_add_eq_or_of_lt b.isLt, Nat.shiftLeft_eq]
  omega

/-- A word packed from bytes is the flat number of its bytes, the oldest bits dropped. -/
theorem packWord_toNat (bs : List Byte) :
    (packWord bs).toNat = packLanes 256 (bs.map (·.toNat)) % 2 ^ 64 := by
  induction bs using List.reverseRecOn with
  | nil => rfl
  | append_singleton bs b ih =>
    have hmerge : packWord (bs ++ [b]) = mergeByte (packWord bs) b := by
      simp [packWord, List.foldl_append]
    rw [hmerge, mergeByte_toNat, ih, List.map_append, packLanes_append]
    simp [packLanes, Nat.add_mod, Nat.mul_mod]

/-- No bit is dropped from up to eight bytes. -/
theorem packWord_toNat_of_length_le {bs : List Byte} (hlen : bs.length ≤ 8) :
    (packWord bs).toNat = packLanes 256 (bs.map (·.toNat)) := by
  have hlt := packLanes_lt (forall_mem_map_toNat_lt bs)
  rw [List.length_map] at hlt
  rw [packWord_toNat, Nat.mod_eq_of_lt]
  calc packLanes 256 (bs.map (·.toNat))
      < 256 ^ bs.length := hlt
    _ ≤ 256 ^ 8 := Nat.pow_le_pow_right (by decide) hlen
    _ = 2 ^ 64 := by decide

/-- The 16 lanes are the eight bytes of `high` followed by the eight bytes of `low`. -/
theorem rnd_toList_eq_halves (r : Rnd) :
    r.toList = [r[0], r[1], r[2], r[3], r[4], r[5], r[6], r[7]]
      ++ [r[8], r[9], r[10], r[11], r[12], r[13], r[14], r[15]] := by
  have hlanes : r = Vector.ofFn fun i : Fin 16 => r[i] := by ext; simp
  conv_lhs => rw [hlanes, Vector.toList_ofFn]
  rfl

/-- Bytes before the last eight stand from bit 64 up, and each eight bytes are a word. -/
theorem packLanes_append_eq_packWord {his los : List Byte} (hhi : his.length ≤ 8)
    (hlo : los.length = 8) :
    packLanes 256 ((his ++ los).map (·.toNat))
      = (packWord his).toNat * 2 ^ 64 + (packWord los).toNat := by
  rw [packWord_toNat_of_length_le hhi, packWord_toNat_of_length_le hlo.le, List.map_append,
    packLanes_append, List.length_map, hlo, show (256 : Nat) ^ 8 = 2 ^ 64 by decide]

/-- R46: the two halves of `req_rnd_flat` are the two words of R45. -/
theorem flatRnd_eq_packBytes (r : Rnd) :
    flatRnd r = (packBytes r).high.toNat * 2 ^ 64 + (packBytes r).low.toNat := by
  rw [flatRnd, rnd_toList_eq_halves]
  exact packLanes_append_eq_packWord (Nat.le_refl 8) rfl

end Sys2Proof.Machine

section

open Sys2Proof Sys2Proof.Machine

/-- Settles O1 (R41): the ranges of `hexval`, and the count of its valid entries from 256 entries up. -/
theorem hexvalHoldsExactlyTheTwentyTwoDigits : Obligations.HexvalHoldsExactlyTheTwentyTwoDigits := by
  refine ⟨hexval_eq_some_iff, fun charW hW => count_valid_hexval ?_⟩
  calc 0x67 ≤ 2 ^ 8 := by decide
    _ ≤ 2 ^ charW := Nat.pow_le_pow_right (by decide) hW

/-- Settles O7 (R46): each lane is the digit of its flat bus at its place, and the flat random bytes are
the two big-endian words. -/
theorem flatPackingPlacesEveryLane : Obligations.FlatPackingPlacesEveryLane := by
  refine ⟨fun cfg t p hfit => ?_, fun r i => ?_, flatRnd_eq_packBytes⟩
  · rw [Nat.pow_mul]
    exact laneOf_flatText hfit p
  · rw [Nat.pow_mul]
    exact laneOf_flatRnd r i

end

/-! ### The decoder (spec/30_encoding.md R71) -/

namespace Sys2Proof.Machine

/-! #### The operation each code selects (R71) -/

theorem instr_of_op_parse {q : Request} (hop : q.op = 0#2) : q.instr = .parse q.txtLen q.txt := by
  simp [Request.instr, hop]

theorem instr_of_op_format {q : Request} (hop : q.op = 1#2) : q.instr = .format q.hi q.lo := by
  simp [Request.instr, hop]

theorem instr_of_op_v4gen {q : Request} (hop : q.op = 2#2) : q.instr = .v4gen q.rnd := by
  simp [Request.instr, hop]

theorem instr_of_op_v4gens {q : Request} (hop : q.op = 3#2) : q.instr = .v4gens q.rnd := by
  simp [Request.instr, hop]

/-! #### Operands that fit their ports (R25) -/

/-- PARSE is the one operation whose operands can be too wide for their ports. -/
theorem wellFormed_parse_iff {cfg : Params} {len : Nat} {txt : Text} :
    (Instr.parse len txt).WellFormed cfg ↔ len < 2 ^ cfg.lenW ∧ LanesFit cfg txt := by
  rw [Instr.WellFormed, Instr.illFormed?]
  split_ifs with hlong hwide
  · simp [hlong]
  · simpa using fun _ => hwide
  · simpa [LanesFit] using And.intro hlong hwide

/-- The decoder accepts a request whose selected operation is well formed. -/
theorem decode_eq_ok_of_wellFormed {cfg : Params} {q : Request} {i : Instr} (hinstr : q.instr = i)
    (hwf : i.WellFormed cfg) : decode cfg q = .ok i := by
  subst hinstr
  obtain ⟨-, hdecode⟩ | ⟨e, hill, -⟩ := decode_cases cfg q
  · exact hdecode
  · cases hwf.symm.trans hill

end Sys2Proof.Machine

section

open Sys2Proof Sys2Proof.Machine

/-- Settles O8 (R71): each code selects its operation, and only PARSE needs its operands to fit. -/
theorem opcodesSelectTheOperations : Obligations.OpcodesSelectTheOperations := by
  intro cfg q
  refine ⟨fun hop hlen hlanes => ?parse, fun hop => ?format, fun hop => ?v4gen, fun hop => ?v4gens⟩
  case parse =>
    exact decode_eq_ok_of_wellFormed (instr_of_op_parse hop) (wellFormed_parse_iff.mpr ⟨hlen, hlanes⟩)
  case format => exact decode_eq_ok_of_wellFormed (instr_of_op_format hop) rfl
  case v4gen => exact decode_eq_ok_of_wellFormed (instr_of_op_v4gen hop) rfl
  case v4gens => exact decode_eq_ok_of_wellFormed (instr_of_op_v4gens hop) rfl

end

/-! ### PARSE (spec/40_parse.md R90 to R100) -/

namespace Sys2Proof.Machine

/-! #### The nibbles of a merged word (R95) -/

theorem mergeNibble_extract_low (w : Word) (v : Nibble) :
    (mergeNibble w v).extractLsb' 0 4 = v := by
  ext i hi
  simp [mergeNibble, hi, Nat.lt_trans hi]

/-- A merge moves each nibble that is not dropped up by one nibble. -/
theorem mergeNibble_extract_succ (w : Word) (v : Nibble) {j : Nat} (hj : j < 15) :
    (mergeNibble w v).extractLsb' (4 * (j + 1)) 4 = w.extractLsb' (4 * j) 4 := by
  ext i hi
  have hplace : 4 * (j + 1) + i = 4 + (4 * j + i) := by omega
  have hword : (w <<< 4).getLsbD (4 + (4 * j + i)) = w.getLsbD (4 * j + i) := by
    simp only [BitVec.getLsbD_shiftLeft, Nat.add_sub_cancel_left,
      show 4 + (4 * j + i) < 64 by omega, show ¬ 4 + (4 * j + i) < 4 by omega, decide_true,
      decide_false, Bool.not_false, Bool.true_and]
  have hnibble : (v.setWidth 64).getLsbD (4 + (4 * j + i)) = false := by
    rw [BitVec.getLsbD_setWidth, BitVec.getLsbD_of_ge v _ (by omega), Bool.and_false]
  rw [BitVec.getElem_extractLsb', BitVec.getElem_extractLsb', mergeNibble, hplace,
    BitVec.getLsbD_or, hword, hnibble, Bool.or_false]

/-- Of up to 16 nibbles merged left to right none is dropped: nibble `i` stands as many nibbles up as
were merged after it. -/
theorem foldl_mergeNibble_extract (w : Word) {vs : List Nibble} (hlen : vs.length ≤ 16) {i : Nat}
    (hi : i < vs.length) :
    (vs.foldl mergeNibble w).extractLsb' (4 * (vs.length - 1 - i)) 4 = vs[i] := by
  induction vs using List.reverseRecOn with
  | nil => simp at hi
  | append_singleton vs v ih =>
    simp only [List.length_append, List.length_singleton] at hlen hi
    rw [List.foldl_append, List.foldl_cons, List.foldl_nil]
    obtain hlast | hbefore : i = vs.length ∨ i < vs.length := by omega
    · subst hlast
      simp [mergeNibble_extract_low]
    · have hplace : (vs ++ [v]).length - 1 - i = (vs.length - 1 - i) + 1 := by
        simp only [List.length_append, List.length_singleton]; omega
      rw [hplace, mergeNibble_extract_succ _ _ (by omega), ih (by omega) hbefore,
        List.getElem_append_left hbefore]

/-- The word that 16 nibbles give, the first one most significant (R95). -/
def wordOfNibbles (v : Fin 16 → Nibble) : Word :=
  (List.finRange 16).foldl (fun w k => mergeNibble w (v k)) 0#64

theorem wordOfNibbles_extract (v : Fin 16 → Nibble) (k : Fin 16) :
    (wordOfNibbles v).extractLsb' (60 - 4 * k.val) 4 = v k := by
  have hfold := foldl_mergeNibble_extract 0#64 (vs := (List.finRange 16).map v) (i := k.val)
    (by simp) (by simp)
  have hplace : 4 * (((List.finRange 16).map v).length - 1 - k.val) = 60 - 4 * k.val := by
    simp only [List.length_map, List.length_finRange]; omega
  rw [hplace, List.foldl_map] at hfold
  simpa [wordOfNibbles] using hfold

/-- The nibble of the value that is nibble `k` of `high` (R44). -/
def hiIndex (k : Fin 16) : Fin 32 := ⟨k.val, by omega⟩

/-- The nibble of the value that is nibble `k` of `low` (R44). -/
def loIndex (k : Fin 16) : Fin 32 := ⟨k.val + 16, by omega⟩

theorem eq_hiIndex_or_eq_loIndex (k : Fin 32) : (∃ j, k = hiIndex j) ∨ ∃ j, k = loIndex j := by
  obtain hhi | hlo : k.val < 16 ∨ 16 ≤ k.val := by omega
  · exact .inl ⟨⟨k.val, hhi⟩, rfl⟩
  · exact .inr ⟨⟨k.val - 16, by omega⟩, Fin.ext (Nat.sub_add_cancel hlo).symm⟩

theorem sliceOf_hiIndex (u : UUID) (k : Fin 16) :
    sliceOf u (hiIndex k) = u.high.extractLsb' (60 - 4 * k.val) 4 := by
  rw [sliceOf, UUID.bits, BitVec.extractLsb'_append_eq_of_le (by simp only [hiIndex]; omega),
    show 124 - 4 * (hiIndex k).val - 64 = 60 - 4 * k.val by simp only [hiIndex]; omega]

theorem sliceOf_loIndex (u : UUID) (k : Fin 16) :
    sliceOf u (loIndex k) = u.low.extractLsb' (60 - 4 * k.val) 4 := by
  rw [sliceOf, UUID.bits, BitVec.extractLsb'_append_eq_of_add_le (by simp only [loIndex]; omega),
    show 124 - 4 * (loIndex k).val = 60 - 4 * k.val by simp only [loIndex]; omega]

/-- The value whose nibbles are the given 32. -/
def uuidOfNibbles (v : Fin 32 → Nibble) : UUID :=
  { high := wordOfNibbles fun k => v (hiIndex k), low := wordOfNibbles fun k => v (loIndex k) }

@[simp] theorem sliceOf_uuidOfNibbles (v : Fin 32 → Nibble) (k : Fin 32) :
    sliceOf (uuidOfNibbles v) k = v k := by
  obtain ⟨j, rfl⟩ | ⟨j, rfl⟩ := eq_hiIndex_or_eq_loIndex k
  · rw [sliceOf_hiIndex, uuidOfNibbles, wordOfNibbles_extract]
  · rw [sliceOf_loIndex, uuidOfNibbles, wordOfNibbles_extract]

/-! #### The positions of the digits (R7, R65) -/

theorem hiPos_eq_map_posOf : hiPos = (List.finRange 16).map fun k => posOf (hiIndex k) := by decide

theorem loPos_eq_map_posOf : loPos = (List.finRange 16).map fun k => posOf (loIndex k) := by decide

theorem posOf_mem_digitPos (k : Fin 32) : posOf k ∈ digitPos := by decide +revert

theorem exists_posOf_eq_of_mem_digitPos {p : Fin 36} (hp : p ∈ digitPos) : ∃ k, posOf k = p := by
  decide +revert

theorem ne_of_mem_digitPos_of_mem_sepPos {p q : Fin 36} (hp : p ∈ digitPos) (hq : q ∈ sepPos) :
    p ≠ q := by
  decide +revert

/-! #### The digits of a text (R94 to R97) -/

/-- The assembly over digits is the merge of their values (R95). -/
theorem assemble_of_digits {ι : Type} {t : Text} (pos : ι → Fin 36) (v : ι → Nibble) (ks : List ι)
    (w : Word) (hv : ∀ k, hexval t[pos k] = some (v k)) :
    assemble t (ks.map pos) w = .ok (ks.foldl (fun w k => mergeNibble w (v k)) w) := by
  induction ks generalizing w with
  | nil => rfl
  | cons k ks ih => simp only [List.map_cons, assemble, hv k, List.foldl_cons, ih]

/-- A text whose digits have the values `v` gives the value with the nibbles `v`. -/
theorem decodeDigits_of_digits {t : Text} {v : Fin 32 → Nibble}
    (hv : ∀ k, hexval t[posOf k] = some (v k)) : decodeDigits t = .value (uuidOfNibbles v) := by
  have hhigh := assemble_of_digits _ (fun k => v (hiIndex k)) (List.finRange 16) 0#64
    fun k => hv (hiIndex k)
  have hlow := assemble_of_digits _ (fun k => v (loIndex k)) (List.finRange 16) 0#64
    fun k => hv (loIndex k)
  simp only [decodeDigits, hiPos_eq_map_posOf, loPos_eq_map_posOf, hhigh, hlow]
  rfl

/-- Digits at every digit position are 32 values, in the order of the nibbles. -/
theorem digitsOk_iff_exists_nibbles {t : Text} :
    DigitsOk t ↔ ∃ v : Fin 32 → Nibble, ∀ k, hexval t[posOf k] = some (v k) := by
  constructor
  · intro hdigits
    choose v hv using fun k => Option.isSome_iff_exists.mp (hdigits _ (posOf_mem_digitPos k))
    exact ⟨v, hv⟩
  · rintro ⟨v, hv⟩ p hp
    obtain ⟨k, rfl⟩ := exists_posOf_eq_of_mem_digitPos hp
    rw [hv k]; rfl

/-- What the digit check can answer: the value of 32 digits, or an invalid digit of the text. -/
theorem decodeDigits_cases (t : Text) :
    (∃ v : Fin 32 → Nibble, (∀ k, hexval t[posOf k] = some (v k)) ∧
      decodeDigits t = .value (uuidOfNibbles v)) ∨
    ∃ p ∈ digitPos, hexval t[p] = none ∧
      decodeDigits t = .invalidFormat (.illegalHexDigit p t[p]) := by
  by_cases hdigits : DigitsOk t
  · obtain ⟨v, hv⟩ := digitsOk_iff_exists_nibbles.mp hdigits
    exact .inl ⟨v, hv, decodeDigits_of_digits hv⟩
  · right
    unfold decodeDigits
    split
    · next p hhigh =>
      obtain ⟨hp, hnone⟩ := assemble_error hhigh
      exact ⟨p, List.mem_append_left _ hp, hnone, rfl⟩
    · next hhigh =>
      split
      · next p hlow =>
        obtain ⟨hp, hnone⟩ := assemble_error hlow
        exact ⟨p, List.mem_append_right _ hp, hnone, rfl⟩
      · next hlow =>
        exact absurd (List.forall_mem_append.mpr ⟨assemble_ok hhigh, assemble_ok hlow⟩) hdigits

theorem assemble_congr {t t' : Text} {ps : List (Fin 36)} (w : Word) (h : ∀ p ∈ ps, t[p] = t'[p]) :
    assemble t ps w = assemble t' ps w := by
  induction ps generalizing w with
  | nil => rfl
  | cons p ps ih =>
    obtain ⟨hp, hps⟩ := List.forall_mem_cons.mp h
    simp only [assemble, hp, fun w => ih w hps]

/-- The digit check reads the digit positions and no other. -/
theorem decodeDigits_congr {t t' : Text} (h : ∀ p ∈ digitPos, t[p] = t'[p]) :
    decodeDigits t = decodeDigits t' := by
  obtain ⟨hhigh, hlow⟩ := List.forall_mem_append.mp h
  unfold decodeDigits
  rw [assemble_congr _ hhigh, assemble_congr _ hlow]
  split
  · next p he => rw [hhigh p (assemble_error he).1]
  · split
    · next p he => rw [hlow p (assemble_error he).1]
    · rfl

/-! #### The answer (R90 to R93, R139) -/

theorem parseAnswer_of_length_ne {len : Nat} (hlen : len ≠ 36) (cfg : Params) (t : Text) :
    parseAnswer cfg len t = .invalidFormat (.wrongLength len) := by
  simp [parseAnswer, hlen]

/-- Past the length check and the separator check, if there is one, the answer is the digits'. -/
theorem parseAnswer_of_separatorsOk {cfg : Params} {t : Text}
    (hsep : cfg.strictHyphens = true → SeparatorsOk t) : parseAnswer cfg 36 t = decodeDigits t := by
  by_cases hstrict : cfg.strictHyphens = true
  · simp [parseAnswer, hstrict, badSeparator_none.mpr (hsep hstrict)]
  · simp [parseAnswer, hstrict]

/-- What PARSE can answer: a failed length check, a failed separator check, or the digits' answer. -/
theorem parseAnswer_cases (cfg : Params) (len : Nat) (t : Text) :
    (len ≠ 36 ∧ parseAnswer cfg len t = .invalidFormat (.wrongLength len)) ∨
    (len = 36 ∧ cfg.strictHyphens = true ∧ ∃ p ∈ sepPos, t[p] ≠ 0x2D ∧
      parseAnswer cfg len t = .invalidFormat (.missingSeparator p t[p])) ∨
    (len = 36 ∧ (cfg.strictHyphens = true → SeparatorsOk t) ∧
      parseAnswer cfg len t = decodeDigits t) := by
  by_cases hlen : len = 36
  · subst hlen
    by_cases hsep : cfg.strictHyphens = true → SeparatorsOk t
    · exact .inr (.inr ⟨rfl, hsep, parseAnswer_of_separatorsOk hsep⟩)
    · obtain ⟨hstrict, hbad⟩ := Classical.not_imp.mp hsep
      obtain ⟨p, hp⟩ := Option.ne_none_iff_exists'.mp (mt badSeparator_none.mp hbad)
      obtain ⟨hmem, hne⟩ := badSeparator_some hp
      exact .inr (.inl ⟨rfl, hstrict, p, hmem, hne, by simp [parseAnswer, hstrict, hp]⟩)
  · exact .inl ⟨hlen, parseAnswer_of_length_ne hlen cfg t⟩

/-- PARSE reads STRICT_HYPHENS, the length and, when the length is 36, the text. -/
theorem parseAnswer_congr {cfg cfg' : Params} {len : Nat} {t t' : Text}
    (hstrict : cfg.strictHyphens = cfg'.strictHyphens) (ht : len = 36 → t = t') :
    parseAnswer cfg len t = parseAnswer cfg' len t' := by
  by_cases hlen : len = 36
  · rw [ht hlen, parseAnswer, parseAnswer, hstrict]
  · rw [parseAnswer_of_length_ne hlen, parseAnswer_of_length_ne hlen]

/-- PARSE of a text with digits of the values `v` answers the value with the nibbles `v`. -/
theorem exec_parse_of_digits {s : State} {t : Text} {v : Fin 32 → Nibble}
    (hsep : s.cfg.strictHyphens = true → SeparatorsOk t)
    (hv : ∀ k, hexval t[posOf k] = some (v k)) :
    exec (.parse 36 t) s
      = .next (s.cycle (some (rowValue (uuidOfNibbles v).high (uuidOfNibbles v).low))) := by
  rw [← drive_value, ← decodeDigits_of_digits hv, ← parseAnswer_of_separatorsOk hsep]
  exact execParse_eq 36 t s

/-- The response that a PARSE puts into the pipeline is its answer's, and no other. -/
theorem exec_parse_eq_iff {s : State} {len : Nat} {t : Text} {r : Response} :
    exec (.parse len t) s = .next (s.cycle (some r)) ↔ (parseAnswer s.cfg len t).drive = r := by
  rw [exec, execParse_eq]
  constructor
  · intro h
    exact Option.some_inj.mp (cycle_injective s (Host.Outcome.next.inj h))
  · rintro rfl
    rfl

@[simp] theorem rowValue_status (hi lo : Word) : (rowValue hi lo).status = 0#3 := rfl
@[simp] theorem rowWrongLength_status (n : Nat) : (rowWrongLength n).status = 1#3 := rfl
@[simp] theorem rowMissingSeparator_status (p : Fin 36) (c : Nat) :
    (rowMissingSeparator p c).status = 2#3 := rfl
@[simp] theorem rowIllegalHexDigit_status (p : Fin 36) (c : Nat) :
    (rowIllegalHexDigit p c).status = 3#3 := rfl

/-! #### The case of a digit (R63, R98) -/

theorem hexval_toUpper_of_some {c : Nat} {v : Nibble} (h : hexval c = some v) :
    hexval (toUpper c) = some v := by
  rw [hexval_eq_some_iff] at h ⊢
  unfold toUpper
  split_ifs <;> omega

theorem hexval_toLower_of_some {c : Nat} {v : Nibble} (h : hexval c = some v) :
    hexval (toLower c) = some v := by
  rw [hexval_eq_some_iff] at h ⊢
  unfold toLower
  split_ifs <;> omega

end Sys2Proof.Machine

section

open Sys2Proof Sys2Proof.Machine

/-- Settles O12 (R91, R131): the length check comes first, and status 1 is its alone. -/
theorem parseRejectsEveryOtherLength : Obligations.ParseRejectsEveryOtherLength := by
  refine ⟨fun s len txt hlen => ?_, fun s len n txt h => ?_⟩
  · rw [exec_parse_eq_iff, parseAnswer_of_length_ne hlen, drive_wrongLength]
  · rw [exec_parse_eq_iff] at h
    have hstatus : (parseAnswer s.cfg len txt).drive.status = 1#3 := by rw [h]; rfl
    obtain ⟨hlen, ha⟩ | ⟨-, -, p, -, -, ha⟩ | ⟨-, -, ha⟩ := parseAnswer_cases s.cfg len txt
    · rw [ha, drive_wrongLength] at h
      exact ⟨hlen, (congrArg Response.errLen h).symm⟩
    · simp [ha] at hstatus
    · obtain ⟨v, -, hd⟩ | ⟨p, -, -, hd⟩ := decodeDigits_cases txt
      · simp [ha, hd] at hstatus
      · simp [ha, hd] at hstatus

/-- Settles O15 (R95): the digits' values are merged word by word, the assembly's fold. -/
theorem parseMergesDigitsLeftToRight : Obligations.ParseMergesDigitsLeftToRight :=
  fun _ _ _ hsep hv => exec_parse_of_digits hsep hv

/-- Settles O19 (R97): of PARSE's answers only the digits' value has a value on its ports, and then each
nibble of it is a digit of the text. -/
theorem parseIsAllOrNothing : Obligations.ParseIsAllOrNothing := by
  intro s len txt
  refine ⟨(parseAnswer s.cfg len txt).drive, exec_parse_eq_iff.mpr rfl, ?_⟩
  obtain ⟨-, ha⟩ | ⟨-, -, p, -, -, ha⟩ | ⟨-, -, ha⟩ := parseAnswer_cases s.cfg len txt
  · rw [ha]; exact ⟨rfl, .inr ⟨by simp, by simp, rfl, rfl⟩⟩
  · rw [ha]; exact ⟨rfl, .inr ⟨by simp, by simp, rfl, rfl⟩⟩
  · obtain ⟨v, hv, hd⟩ | ⟨p, -, -, hd⟩ := decodeDigits_cases txt
    · rw [ha, hd]
      refine ⟨rfl, .inl ⟨rfl, rfl, rfl, rfl, fun k => ?_⟩⟩
      rw [hv k]
      exact congrArg some (sliceOf_uuidOfNibbles v k).symm
    · rw [ha, hd]; exact ⟨rfl, .inr ⟨by simp, by simp, rfl, rfl⟩⟩

/-- Settles O22 (R93): in lax mode, and in strict mode with the hyphens in place, the answer for a text of
36 characters is the digits', which reads no separator and is never MISSING_SEPARATOR. -/
theorem laxParseIgnoresSeparators : Obligations.LaxParseIgnoresSeparators := by
  intro s len txt txt' hlax hagree
  simp only [exec_parse_eq_iff]
  by_cases hlen : len = 36
  · subst hlen
    have hnosep (t : Text) : s.cfg.strictHyphens = true → SeparatorsOk t := by simp [hlax]
    refine ⟨(decodeDigits txt').drive, ?_, ?_, ?_, fun hsep s' _ => ?_⟩
    · rw [parseAnswer_of_separatorsOk (hnosep txt), decodeDigits_congr hagree]
    · rw [parseAnswer_of_separatorsOk (hnosep txt')]
    · obtain ⟨v, -, hd⟩ | ⟨p, -, -, hd⟩ := decodeDigits_cases txt'
      · simp [hd]
      · simp [hd]
    · rw [parseAnswer_of_separatorsOk fun _ => hsep]
  · simp only [parseAnswer_of_length_ne hlen]
    exact ⟨_, rfl, rfl, by simp, fun _ _ _ => rfl⟩

/-- Settles O23 (R98): HEXVAL gives both cases of a letter one value, so both texts have the same 32
digits. -/
theorem parseIsCaseInsensitive : Obligations.ParseIsCaseInsensitive := by
  intro s txt txt' haccepted hsepEq hcase
  obtain ⟨hsep, hdigits⟩ := haccepted
  obtain ⟨v, hv⟩ := digitsOk_iff_exists_nibbles.mp hdigits
  have hsep' : s.cfg.strictHyphens = true → SeparatorsOk txt' := fun hstrict p hp =>
    (hsepEq p hp).trans (hsep hstrict p hp)
  have hv' (k : Fin 32) : hexval txt'[posOf k] = some (v k) := by
    obtain hsame | hupper | hlower := hcase _ (posOf_mem_digitPos k)
    · rw [hsame, hv k]
    · rw [hupper, hexval_toUpper_of_some (hv k)]
    · rw [hlower, hexval_toLower_of_some (hv k)]
  exact ⟨uuidOfNibbles v, exec_parse_of_digits hsep hv, exec_parse_of_digits hsep' hv'⟩

/-- Settles O24 (R99): the separators still stand, the digits cannot all be valid, and the only invalid
one is the one put in. -/
theorem replacedDigitIsNeverReadAsADigit : Obligations.ReplacedDigitIsNeverReadAsADigit := by
  intro s txt p c haccepted hp hc
  obtain ⟨hsep, hdigits⟩ := haccepted
  have hother {q : Fin 36} (hne : p ≠ q) : (txt.set p.val c p.isLt)[q] = txt[q] :=
    Vector.getElem_set_ne p.isLt q.isLt (Fin.val_ne_of_ne hne)
  have hput : (txt.set p.val c p.isLt)[p] = c := Vector.getElem_set_self p.isLt
  have hsep' : s.cfg.strictHyphens = true → SeparatorsOk (txt.set p.val c p.isLt) :=
    fun hstrict q hq =>
      (hother (ne_of_mem_digitPos_of_mem_sepPos hp hq)).trans (hsep hstrict q hq)
  rw [exec_parse_eq_iff, parseAnswer_of_separatorsOk hsep']
  obtain ⟨v, hv, -⟩ | ⟨q, hq, hnone, hd⟩ := decodeDigits_cases (txt.set p.val c p.isLt)
  · have hvalid := digitsOk_iff_exists_nibbles.mpr ⟨v, hv⟩ p hp
    rw [hput, hc] at hvalid
    cases hvalid
  · by_cases hpq : p = q
    · subst hpq
      rw [hd, hput, drive_illegalHexDigit]
    · have hvalid := hdigits q hq
      rw [← hother hpq, hnone] at hvalid
      cases hvalid

/-- Settles O36 (R102, R119): an answer is a function of the operands and of the one parameter its
operation reads. -/
theorem equalRequestsGetEqualResponses : Obligations.EqualRequestsGetEqualResponses := by
  refine ⟨fun s s' len txt txt' hstrict htxt => ?parse, fun s s' hi lo => ?format,
    fun s s' rnd hunit => ?generate⟩
  case parse =>
    simp only [exec_parse_eq_iff]
    exact ⟨_, rfl, by rw [parseAnswer_congr hstrict htxt]⟩
  case format => exact ⟨_, execFormat_eq hi lo s, execFormat_eq hi lo s'⟩
  case generate =>
    have hanswer (a : Answer) : ifV4gen s'.cfg a = ifV4gen s.cfg a := by
      rw [ifV4gen, ifV4gen, hunit]
    exact ⟨⟨_, execV4gen_eq rnd s, by rw [← hanswer]; exact execV4gen_eq rnd s'⟩,
      ⟨_, execV4gens_eq rnd s, by rw [← hanswer]; exact execV4gens_eq rnd s'⟩⟩

end

/-! ### FORMAT (spec/41_format.md R110 to R115) -/

namespace Sys2Proof.Machine

/-! #### The nibbles of a value (R44, R111) -/

/-- Shift and mask give a slice of the word. -/
theorem shift_mask_eq_extract (w : Word) (n : Nat) :
    ((w >>> n) &&& 0xF#64).setWidth 4 = w.extractLsb' n 4 := by
  apply BitVec.eq_of_toNat_eq
  rw [BitVec.toNat_setWidth, BitVec.toNat_and, BitVec.toNat_ushiftRight, BitVec.extractLsb'_toNat,
    show (0xF#64).toNat = 2 ^ 4 - 1 from rfl, Nat.and_two_pow_sub_one_eq_mod, Nat.mod_mod]

theorem nibble_hiIndex (u : UUID) (k : Fin 16) :
    nibble u (hiIndex k).val = u.high.extractLsb' (60 - 4 * k.val) 4 := by
  have hword : (hiIndex k).val ≤ 15 := Nat.le_of_lt_succ k.isLt
  have hplace : (hiIndex k).val % 16 = k.val := Nat.mod_eq_of_lt k.isLt
  rw [nibble, if_pos hword, hplace, shift_mask_eq_extract]

theorem nibble_loIndex (u : UUID) (k : Fin 16) :
    nibble u (loIndex k).val = u.low.extractLsb' (60 - 4 * k.val) 4 := by
  have hword : ¬ (loIndex k).val ≤ 15 := by simp only [loIndex]; omega
  have hplace : (loIndex k).val % 16 = k.val := by simp only [loIndex]; omega
  rw [nibble, if_neg hword, hplace, shift_mask_eq_extract]

/-- The nibble FORMAT extracts is the slice of the value. -/
theorem nibble_eq_sliceOf (u : UUID) (k : Fin 32) : nibble u k.val = sliceOf u k := by
  obtain ⟨j, rfl⟩ | ⟨j, rfl⟩ := eq_hiIndex_or_eq_loIndex k
  · rw [nibble_hiIndex, sliceOf_hiIndex]
  · rw [nibble_loIndex, sliceOf_loIndex]

/-- A word is told by its 16 nibbles: bit `i` is a bit of the nibble that stands `i / 4` nibbles up. -/
theorem word_eq_of_nibbles_eq {w w' : Word}
    (h : ∀ k : Fin 16, w.extractLsb' (60 - 4 * k.val) 4 = w'.extractLsb' (60 - 4 * k.val) 4) :
    w = w' := by
  apply BitVec.eq_of_getLsbD_eq
  intro i hi
  have hbit := congrArg (fun v : Nibble => v.getLsbD (i % 4)) (h ⟨15 - i / 4, by omega⟩)
  have hplace : 60 - 4 * (15 - i / 4) + i % 4 = i := by omega
  simpa [hplace, Nat.mod_lt] using hbit

/-- A value is told by its 32 nibbles. -/
theorem uuid_eq_of_sliceOf_eq {u u' : UUID} (h : ∀ k, sliceOf u k = sliceOf u' k) : u = u' := by
  have hhigh : u.high = u'.high := word_eq_of_nibbles_eq fun k => by
    rw [← sliceOf_hiIndex, ← sliceOf_hiIndex, h]
  have hlow : u.low = u'.low := word_eq_of_nibbles_eq fun k => by
    rw [← sliceOf_loIndex, ← sliceOf_loIndex, h]
  cases u; cases u'; cases hhigh; cases hlow; rfl

/-- Merging the nibbles of a value gives the value back. -/
@[simp] theorem uuidOfNibbles_sliceOf (u : UUID) : uuidOfNibbles (sliceOf u) = u :=
  uuid_eq_of_sliceOf_eq (sliceOf_uuidOfNibbles (sliceOf u))

/-! #### HEXCHR (R42) -/

theorem hexchr_cases (n : Nibble) :
    (n.toNat ≤ 9 ∧ hexchr n = 0x30 + n.toNat) ∨ (10 ≤ n.toNat ∧ hexchr n = 0x57 + n.toNat) := by
  unfold hexchr
  split_ifs with h <;> omega

/-- The codes of HEXCHR are those of `0` to `9` and of `a` to `f`. -/
theorem hexchr_range (n : Nibble) :
    (0x30 ≤ hexchr n ∧ hexchr n ≤ 0x39) ∨ (0x61 ≤ hexchr n ∧ hexchr n ≤ 0x66) := by
  have hlt : n.toNat < 16 := n.isLt
  obtain ⟨hle, hc⟩ | ⟨hge, hc⟩ := hexchr_cases n <;> omega

@[simp] theorem hexval_hexchr (n : Nibble) : hexval (hexchr n) = some n := by
  have hlt : n.toNat < 16 := n.isLt
  rw [hexval_eq_some_iff]
  obtain ⟨hle, hc⟩ | ⟨hge, hc⟩ := hexchr_cases n <;> omega

/-! #### The text (R112, R115) -/

theorem mem_sepPos_or_exists_posOf_eq (p : Fin 36) : p ∈ sepPos ∨ ∃ k, posOf k = p := by
  decide +revert

theorem nibbleAt_posOf (k : Fin 32) : nibbleAt (posOf k).val = k.val := by decide +revert

theorem formatText_getElem (u : UUID) (p : Fin 36) :
    (formatText u)[p] = if p ∈ sepPos then hyphen else hexchr (nibble u (nibbleAt p.val)) := by
  simp [formatText]

/-- A separator position holds the hyphen. -/
theorem separatorsOk_formatText (u : UUID) : SeparatorsOk (formatText u) := by
  intro p hp
  rw [formatText_getElem, if_pos hp, hyphen]

/-- The digit position of nibble `k` holds its character. -/
theorem formatText_posOf (u : UUID) (k : Fin 32) :
    (formatText u)[posOf k] = hexchr (sliceOf u k) := by
  have hdigit : posOf k ∉ sepPos := fun hsep =>
    ne_of_mem_digitPos_of_mem_sepPos (posOf_mem_digitPos k) hsep rfl
  rw [formatText_getElem, if_neg hdigit, nibbleAt_posOf, nibble_eq_sliceOf]

theorem exec_format_eq (s : State) (hi lo : Word) :
    exec (.format hi lo) s = .next (s.cycle (some (rowText (formatText ⟨hi, lo⟩)))) :=
  execFormat_eq hi lo s

/-- R114: the digits of a formatted value have its nibbles as values, so PARSE merges them back. -/
theorem exec_parse_formatText (s : State) (u : UUID) :
    exec (.parse 36 (formatText u)) s = .next (s.cycle (some (rowValue u.high u.low))) := by
  have hdigits (k : Fin 32) : hexval (formatText u)[posOf k] = some (sliceOf u k) := by
    rw [formatText_posOf, hexval_hexchr]
  rw [exec_parse_of_digits (fun _ => separatorsOk_formatText u) hdigits, uuidOfNibbles_sliceOf]

end Sys2Proof.Machine

section

open Sys2Proof Sys2Proof.Machine

/-- Settles O27 (R114): FORMAT answers the formatted text of the value, and PARSE reads it back in either
mode. -/
theorem parseOfFormatIsIdentity : Obligations.ParseOfFormatIsIdentity :=
  fun s s' hi lo => ⟨formatText ⟨hi, lo⟩, exec_format_eq s hi lo, exec_parse_formatText s' ⟨hi, lo⟩⟩

/-- Settles O26 (R110, R112, R115): each position is a separator, which holds the hyphen, or the position
of a nibble, which holds its lowercase digit. -/
theorem formatGivesTheCanonicalText : Obligations.FormatGivesTheCanonicalText := by
  intro s hi lo
  refine ⟨formatText ⟨hi, lo⟩, exec_format_eq s hi lo, formatText_posOf _, separatorsOk_formatText _,
    fun p => ?_⟩
  obtain hsep | ⟨k, rfl⟩ := mem_sepPos_or_exists_posOf_eq p
  · exact .inl (separatorsOk_formatText _ p hsep)
  · right
    rw [formatText_posOf]
    exact hexchr_range _

end

/-! ### V4GEN and V4GENS (spec/42_v4gen.md R122 to R126) -/

namespace Sys2Proof.Machine

/-! #### The bytes of a value (R45, R66) -/

theorem uuidBits_toNat (u : UUID) : u.bits.toNat = u.high.toNat * 2 ^ 64 + u.low.toNat := by
  rw [UUID.bits, BitVec.toNat_append, ← Nat.shiftLeft_add_eq_or_of_lt u.low.isLt, Nat.shiftLeft_eq]

/-- R45, R66: byte `i` of a value packed from bytes is the byte packed at `i`.  The value is the number on
the flat bus, so the byte is lane `i` of that bus. -/
@[simp] theorem byteAt_packBytes (b : Rnd) (i : Fin 16) : byteAt (packBytes b) i = b[i] := by
  have hplace : (2 : Nat) ^ (120 - 8 * i.val) = 256 ^ (15 - i.val) := by
    rw [show 120 - 8 * i.val = 8 * (15 - i.val) by omega, Nat.pow_mul]
  apply BitVec.eq_of_toNat_eq
  rw [byteAt, BitVec.extractLsb'_toNat, uuidBits_toNat, ← flatRnd_eq_packBytes,
    Nat.shiftRight_eq_div_pow, hplace]
  exact laneOf_flatRnd b i

/-- The first eight bytes of a value are the bytes of `high`, from the top. -/
theorem high_extract_eq_byteAt (u : UUID) (i : Fin 8) :
    u.high.extractLsb' (56 - 8 * i.val) 8 = byteAt u ⟨i.val, by omega⟩ := by
  rw [byteAt, UUID.bits, BitVec.extractLsb'_append_eq_of_le (by dsimp only; omega),
    show 120 - 8 * i.val - 64 = 56 - 8 * i.val by omega]

/-- The last eight bytes of a value are the bytes of `low`, from the top. -/
theorem low_extract_eq_byteAt (u : UUID) (i : Fin 8) :
    u.low.extractLsb' (56 - 8 * i.val) 8 = byteAt u ⟨i.val + 8, by omega⟩ := by
  rw [byteAt, UUID.bits, BitVec.extractLsb'_append_eq_of_add_le (by dsimp only; omega),
    show 120 - 8 * (i.val + 8) = 56 - 8 * i.val by omega]

/-! #### The two fix-ups (R122, R123) -/

theorem fixVersion_extract_version (b : Byte) : (fixVersion b).extractLsb' 4 4 = 0b0100#4 := by
  have hmask : (0x0F#8).extractLsb' 4 4 = 0#4 := by decide
  rw [fixVersion, BitVec.extractLsb'_or, BitVec.extractLsb'_and, hmask, BitVec.and_zero,
    BitVec.zero_or]
  decide

theorem fixVersion_extract_random (b : Byte) :
    (fixVersion b).extractLsb' 0 4 = b.extractLsb' 0 4 := by
  have hmask : (0x0F#8).extractLsb' 0 4 = BitVec.allOnes 4 := by decide
  have hforced : (0x40#8).extractLsb' 0 4 = 0#4 := by decide
  rw [fixVersion, BitVec.extractLsb'_or, BitVec.extractLsb'_and, hmask, hforced,
    BitVec.and_allOnes, BitVec.or_zero]

theorem fixVariant_extract_variant (b : Byte) : (fixVariant b).extractLsb' 6 2 = 0b10#2 := by
  have hmask : (0x3F#8).extractLsb' 6 2 = 0#2 := by decide
  rw [fixVariant, BitVec.extractLsb'_or, BitVec.extractLsb'_and, hmask, BitVec.and_zero,
    BitVec.zero_or]
  decide

theorem fixVariant_extract_random (b : Byte) :
    (fixVariant b).extractLsb' 0 6 = b.extractLsb' 0 6 := by
  have hmask : (0x3F#8).extractLsb' 0 6 = BitVec.allOnes 6 := by decide
  have hforced : (0x80#8).extractLsb' 0 6 = 0#6 := by decide
  rw [fixVariant, BitVec.extractLsb'_or, BitVec.extractLsb'_and, hmask, hforced,
    BitVec.and_allOnes, BitVec.or_zero]

/-! #### The bytes of a generated value (R122 to R124) -/

theorem byteAt_v4fix_six (r : Rnd) : byteAt (v4fix r) 6 = fixVersion r[6] := by
  rw [v4fix, byteAt_packBytes]
  exact (Vector.getElem_set_ne _ _ (by decide)).trans (Vector.getElem_set_self _)

theorem byteAt_v4fix_eight (r : Rnd) : byteAt (v4fix r) 8 = fixVariant r[8] := by
  rw [v4fix, byteAt_packBytes]
  exact Vector.getElem_set_self _

theorem byteAt_v4fix_of_ne (r : Rnd) {i : Fin 16} (h6 : i ≠ 6) (h8 : i ≠ 8) :
    byteAt (v4fix r) i = r[i] := by
  rw [v4fix, byteAt_packBytes]
  exact (Vector.getElem_set_ne _ i.isLt (Fin.val_ne_of_ne h8.symm)).trans
    (Vector.getElem_set_ne _ i.isLt (Fin.val_ne_of_ne h6.symm))

/-! #### The answers of the unit when it is present (R120, R126) -/

theorem exec_v4gen_of_present {s : State} (h : s.cfg.hasV4gen = true) (r : Rnd) :
    exec (.v4gen r) s = .next (s.cycle (some (rowValue (v4fix r).high (v4fix r).low))) := by
  rw [exec, execV4gen_eq, ifV4gen_present h, drive_value]

theorem exec_v4gens_of_present {s : State} (h : s.cfg.hasV4gen = true) (r : Rnd) :
    exec (.v4gens r) s = .next (s.cycle (some (rowText (formatText (v4fix r))))) := by
  rw [exec, execV4gens_eq, ifV4gen_present h, drive_text]

end Sys2Proof.Machine

section

open Sys2Proof Sys2Proof.Machine

/-- Settles O30 (R122 to R124): each byte of the value is the byte packed there, which at 6 and 8 is a
fixed-up one and elsewhere the random one. -/
theorem v4genFixesTwoBytesAndPacksTheRest : Obligations.V4genFixesTwoBytesAndPacksTheRest := by
  intro s r hunit
  refine ⟨v4fix r, exec_v4gen_of_present hunit r, byteAt_v4fix_six r, ?version, ?versionRandom,
    byteAt_v4fix_eight r, ?variant, ?variantRandom, fun _ => byteAt_v4fix_of_ne r,
    high_extract_eq_byteAt _, low_extract_eq_byteAt _⟩
  case version => rw [byteAt_v4fix_six, fixVersion_extract_version]
  case versionRandom => rw [byteAt_v4fix_six, fixVersion_extract_random]
  case variant => rw [byteAt_v4fix_eight, fixVariant_extract_variant]
  case variantRandom => rw [byteAt_v4fix_eight, fixVariant_extract_random]

/-- Settles O33 (R126): V4GENS and FORMAT both answer the formatted text of the value V4GEN answers. -/
theorem v4gensIsFormatOfV4gen : Obligations.V4gensIsFormatOfV4gen :=
  fun s r hunit => ⟨v4fix r, formatText (v4fix r), exec_v4gen_of_present hunit r,
    exec_v4gens_of_present hunit r, exec_format_eq s _ _⟩

end

/-! ### Exceptions (spec/60_exceptions.md R131 to R140) -/

namespace Sys2Proof.Machine

/-! #### The lowest offending position (R140) -/

/-- In an increasing list the first element found is the lowest. -/
theorem find?_eq_some_iff_lowest {α : Type} [LinearOrder α] {f : α → Bool} {l : List α} {a : α}
    (hl : l.Pairwise (· < ·)) :
    l.find? f = some a ↔ a ∈ l ∧ f a = true ∧ ∀ b ∈ l, b < a → f b = false := by
  induction l with
  | nil => simp
  | cons x xs ih =>
    obtain ⟨hx, hxs⟩ := List.pairwise_cons.mp hl
    cases hfx : f x with
    | true =>
      rw [List.find?_cons_of_pos hfx, Option.some_inj]
      constructor
      · rintro rfl
        exact ⟨List.mem_cons_self, hfx, List.forall_mem_cons.mpr
          ⟨fun h => absurd h (lt_irrefl x), fun b hb h => absurd h (hx b hb).asymm⟩⟩
      · rintro ⟨ha, -, hlow⟩
        obtain rfl | ha := List.mem_cons.mp ha
        · rfl
        · rw [hlow x List.mem_cons_self (hx a ha)] at hfx
          cases hfx
    | false =>
      rw [List.find?_cons_of_neg (by simp [hfx]), ih hxs, List.mem_cons, List.forall_mem_cons]
      constructor
      · rintro ⟨ha, hfa, hlow⟩
        exact ⟨.inr ha, hfa, fun _ => hfx, hlow⟩
      · rintro ⟨rfl | ha, hfa, -, hlow⟩
        · rw [hfa] at hfx
          cases hfx
        · exact ⟨ha, hfa, hlow⟩

theorem badSeparator_eq_some_iff {t : Text} {p : Fin 36} :
    badSeparator? t = some p ↔ p ∈ sepPos ∧ t[p] ≠ 0x2D ∧ ∀ q ∈ sepPos, q < p → t[q] = 0x2D := by
  rw [badSeparator?, find?_eq_some_iff_lowest (by decide)]
  simp [hyphen]

/-- The lowest digit position whose character is invalid (R94, R140). -/
def badDigit? (t : Text) : Option (Fin 36) := digitPos.find? fun p => (hexval t[p]).isNone

theorem badDigit_eq_some_iff {t : Text} {p : Fin 36} :
    badDigit? t = some p ↔
      p ∈ digitPos ∧ hexval t[p] = none ∧ ∀ q ∈ digitPos, q < p → hexval t[q] ≠ none := by
  rw [badDigit?, find?_eq_some_iff_lowest (by decide)]
  simp [Option.isSome_iff_ne_none]

theorem badDigit_eq_none_iff {t : Text} : badDigit? t = none ↔ DigitsOk t := by
  simp [badDigit?, DigitsOk, Option.isSome_iff_ne_none]

/-- The assembly stops at the first invalid digit of its positions, whatever it has merged so far. -/
theorem assemble_eq_error_iff {t : Text} {ps : List (Fin 36)} {w : Word} {p : Fin 36} :
    assemble t ps w = .error p ↔ ps.find? (fun q => (hexval t[q]).isNone) = some p := by
  induction ps generalizing w with
  | nil => simp [assemble]
  | cons q qs ih =>
    rw [assemble, List.find?_cons]
    cases hexval t[q] with
    | none => simp
    | some v => exact ih

/-- The router reports the lowest invalid digit: those of `high` stand below those of `low`. -/
theorem decodeDigits_of_badDigit {t : Text} {p : Fin 36} (h : badDigit? t = some p) :
    decodeDigits t = .invalidFormat (.illegalHexDigit p t[p]) := by
  rw [badDigit?, digitPos, List.find?_append, Option.or_eq_some_iff] at h
  obtain hhigh | ⟨hhigh, hlow⟩ := h
  · simp only [decodeDigits, assemble_eq_error_iff.mpr hhigh]
  · rw [← assemble_eq_error_iff (w := 0#64)] at hlow
    cases hassemble : assemble t hiPos 0#64 with
    | error q => cases hhigh.symm.trans (assemble_eq_error_iff.mp hassemble)
    | ok high => simp only [decodeDigits, hassemble, hlow]

/-! #### The order of the checks (R139) -/

theorem parseAnswer_of_badSeparator {cfg : Params} {t : Text} {p : Fin 36}
    (hstrict : cfg.strictHyphens = true) (h : badSeparator? t = some p) :
    parseAnswer cfg 36 t = .invalidFormat (.missingSeparator p t[p]) := by
  simp [parseAnswer, hstrict, h]

theorem parseAnswer_of_badDigit {cfg : Params} {t : Text} {p : Fin 36}
    (hsep : cfg.strictHyphens = true → SeparatorsOk t) (h : badDigit? t = some p) :
    parseAnswer cfg 36 t = .invalidFormat (.illegalHexDigit p t[p]) := by
  rw [parseAnswer_of_separatorsOk hsep, decodeDigits_of_badDigit h]

/-- What PARSE can answer, check by check: each cause with the lowest position that raises it, or the
value of an accepted text. -/
theorem parseAnswer_outcomes (cfg : Params) (len : Nat) (t : Text) :
    (len ≠ 36 ∧ parseAnswer cfg len t = .invalidFormat (.wrongLength len)) ∨
    (len = 36 ∧ cfg.strictHyphens = true ∧ ∃ p, badSeparator? t = some p ∧
      parseAnswer cfg len t = .invalidFormat (.missingSeparator p t[p])) ∨
    (len = 36 ∧ (cfg.strictHyphens = true → SeparatorsOk t) ∧ ∃ p, badDigit? t = some p ∧
      parseAnswer cfg len t = .invalidFormat (.illegalHexDigit p t[p])) ∨
    (len = 36 ∧ Accepted cfg t ∧ ∃ u, parseAnswer cfg len t = .value u) := by
  by_cases hlen : len = 36
  · subst hlen
    by_cases hsep : cfg.strictHyphens = true → SeparatorsOk t
    · cases hbad : badDigit? t with
      | some p => exact .inr (.inr (.inl ⟨rfl, hsep, p, rfl, parseAnswer_of_badDigit hsep hbad⟩))
      | none =>
        have hdigits : DigitsOk t := badDigit_eq_none_iff.mp hbad
        obtain ⟨v, hv⟩ := digitsOk_iff_exists_nibbles.mp hdigits
        exact .inr (.inr (.inr ⟨rfl, ⟨hsep, hdigits⟩, uuidOfNibbles v,
          (parseAnswer_of_separatorsOk hsep).trans (decodeDigits_of_digits hv)⟩))
    · obtain ⟨hstrict, hbad⟩ := Classical.not_imp.mp hsep
      obtain ⟨p, hp⟩ := Option.ne_none_iff_exists'.mp (mt badSeparator_none.mp hbad)
      exact .inr (.inl ⟨rfl, hstrict, p, hp, parseAnswer_of_badSeparator hstrict hp⟩)
  · exact .inl ⟨hlen, parseAnswer_of_length_ne hlen cfg t⟩

theorem parseAnswer_eq_missingSeparator_iff {cfg : Params} {len : Nat} {t : Text} {p : Fin 36}
    {c : Nat} :
    parseAnswer cfg len t = .invalidFormat (.missingSeparator p c) ↔
      len = 36 ∧ cfg.strictHyphens = true ∧ badSeparator? t = some p ∧ c = t[p] := by
  constructor
  · intro h
    obtain ⟨-, ha⟩ | ⟨hlen, hstrict, q, hq, ha⟩ | ⟨-, -, q, -, ha⟩ | ⟨-, -, u, ha⟩ :=
      parseAnswer_outcomes cfg len t
    · cases ha.symm.trans h
    · cases ha.symm.trans h
      exact ⟨hlen, hstrict, hq, rfl⟩
    · cases ha.symm.trans h
    · cases ha.symm.trans h
  · rintro ⟨rfl, hstrict, hp, rfl⟩
    exact parseAnswer_of_badSeparator hstrict hp

theorem parseAnswer_eq_illegalHexDigit_iff {cfg : Params} {len : Nat} {t : Text} {p : Fin 36}
    {c : Nat} :
    parseAnswer cfg len t = .invalidFormat (.illegalHexDigit p c) ↔
      len = 36 ∧ (cfg.strictHyphens = true → SeparatorsOk t) ∧ badDigit? t = some p ∧ c = t[p] := by
  constructor
  · intro h
    obtain ⟨-, ha⟩ | ⟨-, -, q, -, ha⟩ | ⟨hlen, hsep, q, hq, ha⟩ | ⟨-, -, u, ha⟩ :=
      parseAnswer_outcomes cfg len t
    · cases ha.symm.trans h
    · cases ha.symm.trans h
    · cases ha.symm.trans h
      exact ⟨hlen, hsep, hq, rfl⟩
    · cases ha.symm.trans h
  · rintro ⟨rfl, hsep, hp, rfl⟩
    exact parseAnswer_of_badDigit hsep hp

/-! #### What an error response records (R136, R137) -/

/-- `rsp_err_pos` has room for every text position. -/
theorem errPos_toNat (p : Fin 36) : (BitVec.ofNat 6 p.val).toNat = p.val :=
  (BitVec.toNat_ofNat p.val 6).trans (Nat.mod_eq_of_lt (p.isLt.trans (by decide)))

theorem errPos_inj {p q : Fin 36} (h : BitVec.ofNat 6 p.val = BitVec.ofNat 6 q.val) : p = q :=
  Fin.ext (by rw [← errPos_toNat p, h, errPos_toNat q])

theorem Cause.drive_status (c : Cause) : c.drive.status = c.status := by cases c <;> rfl

/-- The code and the diagnostics of an error response tell its cause. -/
theorem Cause.drive_injective : Function.Injective Cause.drive := by
  intro c c' h
  have hstatus : c.status = c'.status := by rw [← drive_status, h, drive_status]
  have hpos := congrArg Response.errPos h
  have hchar := congrArg Response.errChar h
  have hlen := congrArg Response.errLen h
  cases c with
  | wrongLength n =>
    cases c' with
    | wrongLength n' => exact congrArg _ hlen
    | _ => cases hstatus
  | missingSeparator p d =>
    cases c' with
    | missingSeparator p' d' => exact congrArg₂ _ (errPos_inj hpos) hchar
    | _ => cases hstatus
  | illegalHexDigit p d =>
    cases c' with
    | illegalHexDigit p' d' => exact congrArg₂ _ (errPos_inj hpos) hchar
    | _ => cases hstatus

/-- Only the error itself drives an error's response. -/
theorem drive_eq_drive_invalidFormat_iff {a : Answer} {c : Cause} :
    a.drive = (Answer.invalidFormat c).drive ↔ a = .invalidFormat c := by
  refine ⟨fun h => ?_, congrArg _⟩
  cases a with
  | invalidFormat c' => exact congrArg _ (Cause.drive_injective h)
  | _ =>
    have hstatus := congrArg Response.status h
    cases c <;> cases hstatus

theorem exec_parse_eq_missingSeparator_iff {s : State} {len : Nat} {t : Text} {p : Fin 36}
    {c : Nat} :
    exec (.parse len t) s = .next (s.cycle (some (rowMissingSeparator p c))) ↔
      len = 36 ∧ s.cfg.strictHyphens = true ∧ badSeparator? t = some p ∧ c = t[p] := by
  rw [exec_parse_eq_iff, ← drive_missingSeparator, drive_eq_drive_invalidFormat_iff,
    parseAnswer_eq_missingSeparator_iff]

theorem exec_parse_eq_illegalHexDigit_iff {s : State} {len : Nat} {t : Text} {p : Fin 36}
    {c : Nat} :
    exec (.parse len t) s = .next (s.cycle (some (rowIllegalHexDigit p c))) ↔
      len = 36 ∧ (s.cfg.strictHyphens = true → SeparatorsOk t) ∧ badDigit? t = some p ∧ c = t[p] := by
  rw [exec_parse_eq_iff, ← drive_illegalHexDigit, drive_eq_drive_invalidFormat_iff,
    parseAnswer_eq_illegalHexDigit_iff]

end Sys2Proof.Machine

section

open Sys2Proof Sys2Proof.Machine

/-- Settles O13 (R132): the separator check of strict mode finds the lowest separator that holds no
hyphen. -/
theorem parseReportsTheLowestBadSeparator : Obligations.ParseReportsTheLowestBadSeparator := by
  refine ⟨fun s txt p hstrict hp hne hlow => ?_, fun s len txt p c h => ?_⟩
  · exact exec_parse_eq_missingSeparator_iff.mpr
      ⟨rfl, hstrict, badSeparator_eq_some_iff.mpr ⟨hp, hne, hlow⟩, rfl⟩
  · obtain ⟨hlen, hstrict, hbad, hc⟩ := exec_parse_eq_missingSeparator_iff.mp h
    obtain ⟨hp, hne, hlow⟩ := badSeparator_eq_some_iff.mp hbad
    exact ⟨hlen, hstrict, hp, hne, hc, hlow⟩

/-- Settles O14 (R133): past the checks before it, the digit check finds the lowest invalid digit. -/
theorem parseReportsTheLowestIllegalDigit : Obligations.ParseReportsTheLowestIllegalDigit := by
  refine ⟨fun s txt p hsep hp hnone hlow => ?_, fun s len txt p c h => ?_⟩
  · exact exec_parse_eq_illegalHexDigit_iff.mpr
      ⟨rfl, hsep, badDigit_eq_some_iff.mpr ⟨hp, hnone, hlow⟩, rfl⟩
  · obtain ⟨hlen, hsep, hbad, hc⟩ := exec_parse_eq_illegalHexDigit_iff.mp h
    obtain ⟨hp, hnone, hlow⟩ := badDigit_eq_some_iff.mp hbad
    exact ⟨hlen, hsep, hp, hnone, hc, hlow⟩

/-- Settles O20 (R139): each outcome of PARSE has passed the checks before it and failed its own. -/
theorem parseReportsCausesInOrder : Obligations.ParseReportsCausesInOrder := by
  intro s len txt
  refine ⟨(parseAnswer s.cfg len txt).drive, exec_parse_eq_iff.mpr rfl, ?_⟩
  obtain ⟨hlen, ha⟩ | ⟨hlen, hstrict, p, hbad, ha⟩ | ⟨hlen, hsep, p, hbad, ha⟩ |
    ⟨hlen, ⟨hsep, hdigits⟩, u, ha⟩ := parseAnswer_outcomes s.cfg len txt
  · rw [ha, if_pos hlen]
    rfl
  · have hnot : ¬ SeparatorsOk txt := mt badSeparator_none.mpr (by simp [hbad])
    rw [ha, if_neg (not_not.mpr hlen), if_pos ⟨hstrict, hnot⟩]
    rfl
  · have hnot : ¬ DigitsOk txt := mt badDigit_eq_none_iff.mpr (by simp [hbad])
    rw [ha, if_neg (not_not.mpr hlen), if_neg fun h => h.2 (hsep h.1), if_pos hnot]
    rfl
  · rw [ha, if_neg (not_not.mpr hlen), if_neg fun h => h.2 (hsep h.1),
      if_neg (not_not.mpr hdigits)]
    rfl

/-- Settles O21 (R137): each cause has a status of its own, and its row carries the diagnostics of the
position found. -/
theorem diagnosticsPointAtTheOffendingCharacter :
    Obligations.DiagnosticsPointAtTheOffendingCharacter := by
  intro s len txt
  refine ⟨(parseAnswer s.cfg len txt).drive, exec_parse_eq_iff.mpr rfl, ?_⟩
  obtain ⟨-, ha⟩ | ⟨-, -, p, hbad, ha⟩ | ⟨-, -, p, hbad, ha⟩ | ⟨-, -, u, ha⟩ :=
    parseAnswer_outcomes s.cfg len txt
  · rw [ha]
    exact ⟨fun _ => ⟨rfl, rfl, rfl⟩, by simp, by simp⟩
  · obtain ⟨hp, -, -⟩ := badSeparator_eq_some_iff.mp hbad
    rw [ha]
    exact ⟨by simp, fun _ => ⟨rfl, p, hp, errPos_toNat p, rfl⟩, by simp⟩
  · obtain ⟨hp, -, -⟩ := badDigit_eq_some_iff.mp hbad
    rw [ha]
    exact ⟨by simp, by simp, fun _ => ⟨rfl, p, hp, errPos_toNat p, rfl⟩⟩
  · rw [ha]
    exact ⟨by simp, by simp, by simp⟩

end

/-! ### The stream of responses (spec/70_reset_and_hazards.md R165) -/

namespace Sys2Proof.Machine

/-! #### One cycle with `rst` low (R12, R144, R165) -/

/-- An operation does nothing but put the answer of its operands on its way (R12). -/
theorem exec_eq_cycle_answerOf (i : Instr) (s : State) :
    exec i s = .next (s.cycle (some (answerOf s.cfg i).drive)) := by
  cases i with
  | parse len txt => exact execParse_eq len txt s
  | format hi lo => exact execFormat_eq hi lo s
  | v4gen rnd => exact execV4gen_eq rnd s
  | v4gens rnd => exact execV4gens_eq rnd s

theorem answer_of_idle {c : PortsIn} (hidle : c.reqValid = false) (cfg : Params) :
    c.answer cfg = none := by
  simp [PortsIn.answer, hidle]

theorem answer_of_decode {cfg : Params} {c : PortsIn} {i : Instr} (hvalid : c.reqValid = true)
    (hdecode : decode cfg c.req = .ok i) : c.answer cfg = some (answerOf cfg i).drive := by
  simp [PortsIn.answer, hvalid, hdecode]

/-- With `rst` low and a request, if any, that fits its ports, a step is one cycle of the pipeline, which
the answer of the request enters. -/
theorem step_of_presentable {s : State} {c : PortsIn} {later : List PortsIn}
    (hin : s.inputs = c :: later) (hrst : c.rst = false) (hfits : c.Presentable s.cfg) :
    step s = .next (State.cycle { s with inputs := later } (c.answer s.cfg)) := by
  cases hvalid : c.reqValid with
  | false => simp [step, hin, hrst, hvalid, answer_of_idle hvalid]
  | true =>
    have hdecode := decode_eq_ok_of_wellFormed rfl (hfits hvalid)
    simp [step, hin, hrst, hvalid, hdecode, exec_eq_cycle_answerOf, answer_of_decode hvalid hdecode]

/-! #### Many cycles with `rst` low -/

theorem outputs_succ_of_step {s t : State} (hstep : step s = .next t) (n : Nat) :
    outputs (n + 1) s = t.rsp :: outputs n t := by
  rw [outputs, hstep]

/-- The pipeline is a queue: each cycle takes its head to the response channel and adds the answer of that
cycle's request at its end, however many registers it has. -/
theorem outputs_eq_take_pipe_append_answers {s : State} {ins : List PortsIn} (hin : s.inputs = ins)
    (hports : ∀ c ∈ ins, c.rst = false ∧ c.Presentable s.cfg) :
    outputs ins.length s = (s.pipe ++ ins.map (PortsIn.answer s.cfg)).take ins.length := by
  induction ins generalizing s with
  | nil => rfl
  | cons c later ih =>
    obtain ⟨⟨hrst, hfits⟩, hlater⟩ := List.forall_mem_cons.mp hports
    obtain ⟨t, hstep, hcfg, hinputs, hqueue⟩ : ∃ t, step s = .next t ∧ t.cfg = s.cfg ∧
        t.inputs = later ∧ t.rsp :: t.pipe = s.pipe ++ [c.answer s.cfg] :=
      ⟨_, step_of_presentable hin hrst hfits, cycle_cfg _ _, cycle_inputs _ _, cycle_rsp_pipe _ _⟩
    have hrest : outputs later.length t
        = (t.pipe ++ later.map (PortsIn.answer s.cfg)).take later.length := by
      rw [← hcfg] at hlater ⊢
      exact ih hinputs hlater
    calc outputs (later.length + 1) s
        = t.rsp :: (t.pipe ++ later.map (PortsIn.answer s.cfg)).take later.length := by
          rw [outputs_succ_of_step hstep, hrest]
      _ = ((t.rsp :: t.pipe) ++ later.map (PortsIn.answer s.cfg)).take (later.length + 1) := rfl
      _ = (s.pipe ++ (c :: later).map (PortsIn.answer s.cfg)).take (later.length + 1) := by
          rw [hqueue, List.append_assoc, List.map_cons, List.singleton_append]

end Sys2Proof.Machine

section

open Sys2Proof Sys2Proof.Machine

/-- Settles O48 (R165): the response channel shows the queue of what was in flight and the answers, in which
the answer of cycle `j` stands LATENCY places further on. -/
theorem streamAnswersEachRequestInOrder : Obligations.StreamAnswersEachRequestInOrder := by
  intro s ins hlen hports
  have hstream : outputs ins.length { s with inputs := ins }
      = (s.pipe ++ ins.map (PortsIn.answer s.cfg)).take ins.length :=
    outputs_eq_take_pipe_append_answers rfl hports
  refine ⟨hstream, fun j c hj hshown => ?_⟩
  rw [hstream, List.getElem?_take_of_lt hshown, ← hlen,
    List.getElem?_append_right (Nat.le_add_left _ _), Nat.add_sub_cancel, List.getElem?_map, hj,
    Option.map_some]

end

/-! ### The encoder (spec/30_encoding.md R70, spec/20_memory.md R46) -/

namespace Sys2Proof.Machine

/-! #### The flat buses read back (R46) -/

theorem flatText_lt {cfg : Params} {t : Text} (hfit : LanesFit cfg t) :
    flatText cfg t < (2 ^ cfg.charW) ^ 36 := by
  have hlanes : ∀ c ∈ t.toList, c < 2 ^ cfg.charW := by
    intro c hc
    obtain ⟨i, hi, rfl⟩ := Vector.mem_iff_getElem.mp (Vector.mem_toList_iff.mp hc)
    exact hfit ⟨i, hi⟩
  simpa [flatText] using packLanes_lt hlanes

theorem flatRnd_lt (r : Rnd) : flatRnd r < 2 ^ 128 := by
  have hlt := packLanes_lt (forall_mem_map_toNat_lt r.toList)
  rw [List.length_map, Vector.length_toList, show (256 : Nat) ^ 16 = 2 ^ 128 by decide] at hlt
  exact hlt

@[simp] theorem textOfFlat_flatText {cfg : Params} {t : Text} (hfit : LanesFit cfg t) :
    textOfFlat cfg (flatText cfg t) = t := by
  ext p hp
  simpa [textOfFlat] using laneOf_flatText hfit ⟨p, hp⟩

@[simp] theorem rndOfFlat_flatRnd (r : Rnd) : rndOfFlat (flatRnd r) = r := by
  apply Vector.ext
  intro i hi
  rw [rndOfFlat, Vector.getElem_ofFn, laneOf_flatRnd r ⟨i, hi⟩, BitVec.ofNat_toNat,
    BitVec.setWidth_eq]
  rfl

/-! #### A request's bits read back (log entry 5) -/

/-- The lowest field of a number laid out in fields of `b` values. -/
theorem add_mul_mod_of_lt {x b : Nat} (hx : x < b) (y : Nat) : (x + b * y) % b = x := by
  rw [Nat.add_mul_mod_self_left, Nat.mod_eq_of_lt hx]

/-- The fields above the lowest one. -/
theorem add_mul_div_of_lt {x b : Nat} (hx : x < b) (y : Nat) : (x + b * y) / b = y := by
  rw [Nat.add_mul_div_left _ _ (Nat.zero_lt_of_lt hx), Nat.div_eq_of_lt hx, Nat.zero_add]

/-- A word that is the lowest field is read through its own width. -/
theorem ofNat_toNat_add_mul {n b : Nat} (w : BitVec n) (hb : 2 ^ n ∣ b) (y : Nat) :
    BitVec.ofNat n (w.toNat + b * y) = w := by
  obtain ⟨c, rfl⟩ := hb
  apply BitVec.eq_of_toNat_eq
  rw [BitVec.toNat_ofNat, Nat.mul_assoc, add_mul_mod_of_lt w.isLt]

/-- Each field of a request stands alone in its bits, so a request that fits its ports is read back. -/
theorem ofWord_toWord {cfg : Params} {q : Request} (hlen : q.txtLen < 2 ^ cfg.lenW)
    (hlanes : LanesFit cfg q.txt) : Request.ofWord cfg (q.toWord cfg) = q := by
  have hop : q.op.toNat < 2 ^ 8 := q.op.isLt.trans (by decide)
  have htxt : flatText cfg q.txt < (2 ^ cfg.charW) ^ 36 := flatText_lt hlanes
  have hrnd : flatRnd q.rnd % 2 ^ 128 = flatRnd q.rnd := Nat.mod_eq_of_lt (flatRnd_lt q.rnd)
  have hopRead (y : Nat) : BitVec.ofNat 2 (q.op.toNat + 2 ^ 8 * y) = q.op :=
    ofNat_toNat_add_mul _ (by decide) y
  have hwordRead (w : Word) (y : Nat) : BitVec.ofNat 64 (w.toNat + 2 ^ 64 * y) = w :=
    ofNat_toNat_add_mul w (Nat.dvd_refl _) y
  simp only [Request.ofWord, Request.toWord, add_mul_div_of_lt hop, add_mul_div_of_lt hlen,
    add_mul_div_of_lt htxt, add_mul_div_of_lt (BitVec.isLt _), add_mul_mod_of_lt hlen,
    add_mul_mod_of_lt htxt, hopRead, hwordRead, hrnd, textOfFlat_flatText hlanes, rndOfFlat_flatRnd]

/-! #### What the decoder rejects (R25, R71) -/

/-- The four codes, and the operation each selects (R71). -/
theorem instr_cases (q : Request) :
    (q.op = 0#2 ∧ q.instr = .parse q.txtLen q.txt) ∨ (q.op = 1#2 ∧ q.instr = .format q.hi q.lo) ∨
      (q.op = 2#2 ∧ q.instr = .v4gen q.rnd) ∨ (q.op = 3#2 ∧ q.instr = .v4gens q.rnd) := by
  have hcodes (op : BitVec 2) : op = 0#2 ∨ op = 1#2 ∨ op = 2#2 ∨ op = 3#2 := by decide +revert
  obtain hop | hop | hop | hop := hcodes q.op
  · exact .inl ⟨hop, instr_of_op_parse hop⟩
  · exact .inr (.inl ⟨hop, instr_of_op_format hop⟩)
  · exact .inr (.inr (.inl ⟨hop, instr_of_op_v4gen hop⟩))
  · exact .inr (.inr (.inr ⟨hop, instr_of_op_v4gens hop⟩))

/-- The decoder rejects a request for the check that its selected operation breaks. -/
theorem decode_eq_error_iff {cfg : Params} {q : Request} {e : IllFormed} :
    decode cfg q = .error e ↔ q.instr.illFormed? cfg = some e := by
  obtain ⟨hill, hdecode⟩ | ⟨e', hill, hdecode⟩ := decode_cases cfg q
  · simp [hill, hdecode]
  · simp [hill, hdecode]

/-- PARSE's length is checked before the lanes of its text. -/
theorem illFormed_parse_eq_some_iff {cfg : Params} {len : Nat} {txt : Text} {e : IllFormed} :
    (Instr.parse len txt).illFormed? cfg = some e ↔
      (e = .lengthTooWide ∧ 2 ^ cfg.lenW ≤ len) ∨
      (e = .laneTooWide ∧ len < 2 ^ cfg.lenW ∧ ¬ LanesFit cfg txt) := by
  rw [Instr.illFormed?]
  split_ifs with hlong hwide
  · simp [hlong, eq_comm]
  · have hunfit : ¬ LanesFit cfg txt := by simpa [LanesFit] using hwide
    simp [hlong, hunfit, Nat.lt_of_not_le hlong, eq_comm]
  · have hfit : LanesFit cfg txt := by simpa [LanesFit] using hwide
    refine iff_of_false nofun ?_
    rintro (⟨-, h⟩ | ⟨-, -, h⟩)
    · exact hlong h
    · exact h hfit

/-! #### What the encoder writes (R71) -/

@[simp] theorem instr_encode (i : Instr) : (encode i).instr = i := by
  cases i with
  | parse len txt => exact instr_of_op_parse rfl
  | format hi lo => exact instr_of_op_format rfl
  | v4gen rnd => exact instr_of_op_v4gen rfl
  | v4gens rnd => exact instr_of_op_v4gens rfl

theorem lanesFit_zero (cfg : Params) : LanesFit cfg (Vector.replicate 36 0) := by
  intro p
  simp

/-- The text ports of an encoded instruction carry PARSE's operands or zero. -/
theorem encode_fits {cfg : Params} {i : Instr} (hwf : i.WellFormed cfg) :
    (encode i).txtLen < 2 ^ cfg.lenW ∧ LanesFit cfg (encode i).txt := by
  have hzero : 0 < 2 ^ cfg.lenW ∧ LanesFit cfg (Vector.replicate 36 0) :=
    ⟨Nat.two_pow_pos _, lanesFit_zero cfg⟩
  cases i with
  | parse len txt => exact wellFormed_parse_iff.mp hwf
  | format hi lo => exact hzero
  | v4gen rnd => exact hzero
  | v4gens rnd => exact hzero

end Sys2Proof.Machine

section

open Sys2Proof Sys2Proof.Machine

/-- Settles O10: the encoded request selects the instruction, and fits its ports, so its bits read back. -/
theorem decodeOfEncodeIsIdentity : Obligations.DecodeOfEncodeIsIdentity := by
  intro cfg i hwf
  obtain ⟨hlen, hlanes⟩ := encode_fits hwf
  exact ⟨decode_eq_ok_of_wellFormed (instr_encode i) hwf, ofWord_toWord hlen hlanes⟩

/-- Settles O9 (log entry 7): of the four operations only PARSE has operands that may be too wide, and it
checks the length first. -/
theorem decodeRejectsExactlyTheUnpresentable :
    Obligations.DecodeRejectsExactlyTheUnpresentable := by
  intro cfg q e
  rw [decode_eq_error_iff]
  obtain ⟨hop, hinstr⟩ | ⟨hop, hinstr⟩ | ⟨hop, hinstr⟩ | ⟨hop, hinstr⟩ := instr_cases q
  · rw [hinstr, illFormed_parse_eq_some_iff]
    simp [hop]
  · simp [hinstr, hop, Instr.illFormed?]
  · simp [hinstr, hop, Instr.illFormed?]
  · simp [hinstr, hop, Instr.illFormed?]

/-- Settles O11: each listed request has its operation's code, and its operands fit. -/
theorem listedRequestsDecode : Obligations.ListedRequestsDecode := by
  refine ⟨decode_eq_ok_of_wellFormed rfl (by decide), decode_eq_ok_of_wellFormed rfl rfl,
    decode_eq_ok_of_wellFormed rfl rfl, decode_eq_ok_of_wellFormed rfl rfl⟩

end

/-! ### One step (spec/70_reset_and_hazards.md R160 to R169) -/

namespace Sys2Proof.Machine

theorem step_of_no_inputs {s : State} (hin : s.inputs = []) : step s = .next (s.cycle none) := by
  simp [step, hin]

theorem step_of_idle {s : State} {now : PortsIn} {later : List PortsIn}
    (hin : s.inputs = now :: later) (hrst : now.rst = false) (hidle : now.reqValid = false) :
    step s = .next (State.cycle { s with inputs := later } none) := by
  simp [step, hin, hrst, hidle]

/-- A request that the decoder reads is performed in the cycle that presents it. -/
theorem step_of_decode {s : State} {q : Request} {i : Instr} (hdecode : decode s.cfg q = .ok i)
    (later : List PortsIn) :
    step { s with inputs := ⟨false, true, q⟩ :: later } = exec i { s with inputs := later } := by
  simp [step, hdecode]

theorem step_of_undecodable {s : State} {now : PortsIn} {later : List PortsIn} {e : IllFormed}
    (hin : s.inputs = now :: later) (hrst : now.rst = false) (hvalid : now.reqValid = true)
    (hdecode : decode s.cfg now.req = .error e) : step s = .fault (.unpresentable e) := by
  simp [step, hin, hrst, hvalid, hdecode]

theorem step_of_rst {s : State} {now : PortsIn} {later : List PortsIn}
    (hin : s.inputs = now :: later) (hrst : now.rst = true) :
    step s = .next (State.resetCycle { s with inputs := later }) := by
  simp [step, hin, hrst]

/-- A reset cycle keeps the parameters and the host's later inputs, and leaves the rest as after reset. -/
theorem resetCycle_eq_resetWith (s : State) :
    s.resetCycle = { State.resetWith s.cfg with inputs := s.inputs } := rfl

/-- With no pipeline registers what enters is presented in the same cycle. -/
theorem rspValid_cycle_of_pipe_nil {s : State} (hpipe : s.pipe = []) (a : Option Response) :
    (s.cycle a).rspValid = a.isSome := by
  have hqueue := cycle_rsp_pipe s a
  rw [hpipe, List.nil_append, List.cons.injEq] at hqueue
  rw [State.rspValid, hqueue.1]

/-! #### Rows that fit the response ports (R25, R29) -/

theorem params_wf_iff {cfg : Params} : cfg.wf = true ↔ 8 ≤ cfg.charW ∧ 6 ≤ cfg.lenW := by
  simp [Params.wf]

/-- The codes of a canonical text fit the narrowest code unit that R6 allows. -/
theorem lanesFit_of_canonical {cfg : Params} (hwf : cfg.wf = true) {t : Text} (ht : Canonical t) :
    LanesFit cfg t := by
  obtain ⟨hsep, hdigit⟩ := ht
  obtain ⟨hwidth, -⟩ := params_wf_iff.mp hwf
  have hroom : 2 ^ 8 ≤ 2 ^ cfg.charW := Nat.pow_le_pow_right (by decide) hwidth
  intro p
  obtain hp | ⟨k, rfl⟩ := mem_sepPos_or_exists_posOf_eq p
  · have hcode := hsep p hp
    omega
  · have hcode := hdigit _ (posOf_mem_digitPos k)
    omega

theorem canonical_formatText (u : UUID) : Canonical (formatText u) := by
  refine ⟨separatorsOk_formatText u, fun p hp => ?_⟩
  obtain ⟨k, rfl⟩ := exists_posOf_eq_of_mem_digitPos hp
  rw [formatText_posOf]
  exact hexchr_range _

theorem legal_rowValue (cfg : Params) (hi lo : Word) : (rowValue hi lo).Legal cfg :=
  ⟨⟨lanesFit_zero cfg, Nat.two_pow_pos _, Nat.two_pow_pos _⟩, .inl ⟨hi, lo, rfl⟩⟩

theorem legal_rowText {cfg : Params} (hwf : cfg.wf = true) {t : Text} (ht : Canonical t) :
    (rowText t).Legal cfg :=
  ⟨⟨lanesFit_of_canonical hwf ht, Nat.two_pow_pos _, Nat.two_pow_pos _⟩, .inr (.inl ⟨t, ht, rfl⟩)⟩

theorem legal_rowWrongLength {cfg : Params} {len : Nat} (hne : len ≠ 36)
    (hfit : len < 2 ^ cfg.lenW) : (rowWrongLength len).Legal cfg :=
  ⟨⟨lanesFit_zero cfg, Nat.two_pow_pos _, hfit⟩, .inr (.inr (.inl ⟨len, hne, rfl⟩))⟩

theorem legal_rowMissingSeparator {cfg : Params} {p : Fin 36} {c : Nat}
    (hstrict : cfg.strictHyphens = true) (hp : p ∈ sepPos) (hc : c ≠ 0x2D)
    (hfit : c < 2 ^ cfg.charW) : (rowMissingSeparator p c).Legal cfg :=
  ⟨⟨lanesFit_zero cfg, hfit, Nat.two_pow_pos _⟩,
    .inr (.inr (.inr (.inl ⟨hstrict, p, hp, c, hc, rfl⟩)))⟩

theorem legal_rowIllegalHexDigit {cfg : Params} {p : Fin 36} {c : Nat} (hp : p ∈ digitPos)
    (hc : hexval c = none) (hfit : c < 2 ^ cfg.charW) : (rowIllegalHexDigit p c).Legal cfg :=
  ⟨⟨lanesFit_zero cfg, hfit, Nat.two_pow_pos _⟩,
    .inr (.inr (.inr (.inr (.inl ⟨p, hp, c, hc, rfl⟩))))⟩

theorem legal_rowBadOp {cfg : Params} (habsent : cfg.hasV4gen = false) : rowBadOp.Legal cfg :=
  ⟨⟨lanesFit_zero cfg, Nat.two_pow_pos _, Nat.two_pow_pos _⟩,
    .inr (.inr (.inr (.inr (.inr ⟨habsent, rfl⟩))))⟩

/-! #### The answers are legal rows (R29, R136) -/

theorem legal_parseAnswer {cfg : Params} {len : Nat} {txt : Text} (hlen : len < 2 ^ cfg.lenW)
    (hlanes : LanesFit cfg txt) : (parseAnswer cfg len txt).drive.Legal cfg := by
  obtain ⟨hne, ha⟩ | ⟨-, hstrict, p, hbad, ha⟩ | ⟨-, -, p, hbad, ha⟩ | ⟨-, -, u, ha⟩ :=
    parseAnswer_outcomes cfg len txt
  · rw [ha]
    exact legal_rowWrongLength hne hlen
  · obtain ⟨hp, hc, -⟩ := badSeparator_eq_some_iff.mp hbad
    rw [ha]
    exact legal_rowMissingSeparator hstrict hp hc (hlanes p)
  · obtain ⟨hp, hc, -⟩ := badDigit_eq_some_iff.mp hbad
    rw [ha]
    exact legal_rowIllegalHexDigit hp hc (hlanes p)
  · rw [ha]
    exact legal_rowValue cfg u.high u.low

/-- The generation unit answers as its operation does, or BAD_OP where it is absent. -/
theorem legal_ifV4gen {cfg : Params} {a : Answer} (ha : a.drive.Legal cfg) :
    (ifV4gen cfg a).drive.Legal cfg := by
  cases hunit : cfg.hasV4gen with
  | true => rwa [ifV4gen_present hunit]
  | false =>
    rw [ifV4gen_absent hunit]
    exact legal_rowBadOp hunit

theorem legal_answerOf {cfg : Params} (hcfg : cfg.wf = true) {i : Instr} (hwf : i.WellFormed cfg) :
    (answerOf cfg i).drive.Legal cfg := by
  cases i with
  | parse len txt =>
    obtain ⟨hlen, hlanes⟩ := wellFormed_parse_iff.mp hwf
    exact legal_parseAnswer hlen hlanes
  | format hi lo => exact legal_rowText hcfg (canonical_formatText _)
  | v4gen rnd => exact legal_ifV4gen (legal_rowValue cfg _ _)
  | v4gens rnd => exact legal_ifV4gen (legal_rowText hcfg (canonical_formatText _))

/-! #### The invariant (R29, R33) -/

/-- The host's inputs are no part of the invariant. -/
theorem inv_with_inputs {s : State} (h : s.Inv) (ins : List PortsIn) :
    State.Inv { s with inputs := ins } :=
  ⟨h.cfg_wf, h.pipe_length, h.pipe_legal, h.rsp_legal⟩

/-- Nothing in flight and nothing presented meets the invariant. -/
theorem inv_resetWith {cfg : Params} (hwf : cfg.wf = true) : (State.resetWith cfg).Inv where
  cfg_wf := hwf
  pipe_length := List.length_replicate
  pipe_legal := by
    intro a ha r hr
    cases (List.eq_of_mem_replicate ha).symm.trans hr
  rsp_legal := nofun

/-- What is in flight and presented after a cycle was in flight before it or has just entered. -/
theorem inv_cycle {s : State} (h : s.Inv) {a : Option Response}
    (ha : ∀ r, a = some r → r.Legal s.cfg) : (s.cycle a).Inv := by
  have hlegal : ∀ b ∈ (s.cycle a).rsp :: (s.cycle a).pipe, ∀ r, b = some r → r.Legal s.cfg := by
    rw [cycle_rsp_pipe, List.forall_mem_append, List.forall_mem_singleton]
    exact ⟨h.pipe_legal, ha⟩
  obtain ⟨hrsp, hpipe⟩ := List.forall_mem_cons.mp hlegal
  refine ⟨?_, ?_, ?_, ?_⟩
  · rw [cycle_cfg]; exact h.cfg_wf
  · rw [cycle_pipe_length, cycle_cfg]; exact h.pipe_length
  · rw [cycle_cfg]; exact hpipe
  · rw [cycle_cfg]; exact hrsp

/-- An idle cycle puts nothing into the pipeline. -/
theorem inv_cycle_none {s : State} (h : s.Inv) : (s.cycle none).Inv :=
  inv_cycle h nofun

theorem inv_resetCycle {s : State} (h : s.Inv) : s.resetCycle.Inv := by
  rw [resetCycle_eq_resetWith]
  exact inv_with_inputs (inv_resetWith h.cfg_wf) _

/-- A well-formed instruction puts a legal response into the pipeline. -/
theorem inv_of_exec {s t : State} (h : s.Inv) {i : Instr} (hwf : i.WellFormed s.cfg)
    (hexec : exec i s = .next t) : t.Inv := by
  rw [exec_eq_cycle_answerOf, Host.Outcome.next.injEq] at hexec
  subst hexec
  refine inv_cycle h fun r hr => ?_
  cases hr
  exact legal_answerOf h.cfg_wf hwf

end Sys2Proof.Machine

section

open Sys2Proof Sys2Proof.Machine

/-- Settles O47 (R29, R136): a step moves the pipeline, discards it, or puts the answer of a request that
fits its ports into it. -/
theorem everyStepKeepsResponsesLegal : Obligations.EveryStepKeepsResponsesLegal := by
  intro s t hinv hstep
  obtain ⟨-, rfl⟩ | ⟨now, later, -, hstep⟩ := step_cases hstep
  · exact inv_cycle_none hinv
  · have hlater : State.Inv { s with inputs := later } := inv_with_inputs hinv later
    obtain ⟨-, rfl⟩ | ⟨-, -, rfl⟩ | ⟨-, -, hwf, hexec⟩ := hstep
    · exact inv_resetCycle hlater
    · exact inv_cycle_none hlater
    · exact inv_of_exec hlater hwf hexec

/-- Settles O46 (R34): nothing is in flight or presented after reset, and R6's values are within R6's
bounds. -/
theorem resetMeetsTheInvariant : Obligations.ResetMeetsTheInvariant :=
  ⟨inv_resetWith rfl, fun _ => inv_resetWith⟩

/-- Settles O44 (R146): every cycle answers a next state but one that presents a request the decoder
rejects. -/
theorem stepIsTotalOnPresentableRequests : Obligations.StepIsTotalOnPresentableRequests := by
  intro s
  cases hin : s.inputs with
  | nil => exact .inl ⟨_, step_of_no_inputs hin⟩
  | cons now later =>
    cases hrst : now.rst with
    | true => exact .inl ⟨_, step_of_rst hin hrst⟩
    | false =>
      by_cases hfits : now.Presentable s.cfg
      · exact .inl ⟨_, step_of_presentable hin hrst hfits⟩
      · obtain ⟨hvalid, hnwf⟩ := Classical.not_imp.mp hfits
        obtain ⟨e, hill⟩ := Option.ne_none_iff_exists'.mp hnwf
        exact .inr ⟨now, later, e, rfl, hrst, hvalid, hill,
          step_of_undecodable hin hrst hvalid (decode_eq_error_iff.mpr hill)⟩

/-- Settles O45 (R24): neither a cycle of the pipeline, nor a reset cycle, nor an operation writes `cfg`
or `inputs`. -/
theorem noStepChangesTheParameters : Obligations.NoStepChangesTheParameters := by
  intro s t hstep
  obtain ⟨hin, rfl⟩ | ⟨now, later, hin, hstep⟩ := step_cases hstep
  · simp [hin]
  · obtain ⟨-, rfl⟩ | ⟨-, -, rfl⟩ | ⟨-, -, -, hexec⟩ := hstep
    · simp [hin]
    · simp [hin]
    · rw [exec_eq_cycle_answerOf, Host.Outcome.next.injEq] at hexec
      subst hexec
      simp [hin]

/-- Settles O35 (R12): each of the four operations answers by its operands. -/
theorem execIsTheAnswerOfItsOperands : Obligations.ExecIsTheAnswerOfItsOperands :=
  exec_eq_cycle_answerOf

/-- Settles O38 (R33, R165): an operation is one cycle of the pipeline, which its response enters. -/
theorem operationsLeaveEverythingElseUnchanged :
    Obligations.OperationsLeaveEverythingElseUnchanged :=
  fun i s => ⟨_, _, exec_eq_cycle_answerOf i s, cycle_cfg _ _, cycle_inputs _ _, cycle_rsp_pipe _ _⟩

/-- Settles O39 (R165): the response channel and the pipeline are one queue, which with no registers holds
the new entry alone. -/
theorem cycleMovesResponsesInOrder : Obligations.CycleMovesResponsesInOrder :=
  fun s a => ⟨cycle_rsp_pipe s a, cycle_cfg s a, cycle_inputs s a,
    fun hpipe => rspValid_cycle_of_pipe_nil hpipe a⟩

/-- Settles O40 (R165, R169): the decoder's reading of the request selects the operation performed. -/
theorem stepRunsTheDecodedInstruction : Obligations.StepRunsTheDecodedInstruction :=
  fun _ _ later _ hdecode => step_of_decode hdecode later

/-- Settles O41 (R144; log entries 3 and 4): without a request, and after the last input, a step is a cycle
that nothing enters. -/
theorem idleStepOnlyMovesThePipeline : Obligations.IdleStepOnlyMovesThePipeline := by
  refine ⟨fun s q later => ?_, fun s hin => ?_⟩
  · exact ⟨State.cycle { s with inputs := later } none, step_of_idle rfl rfl rfl, cycle_cfg _ _,
      cycle_inputs _ _, cycle_rsp_pipe _ _⟩
  · exact ⟨s.cycle none, step_of_no_inputs hin, cycle_cfg _ _, (cycle_inputs _ _).trans hin,
      cycle_rsp_pipe _ _⟩

/-- Settles O42 (R160, R162): with `rst` high neither `req_valid` nor the request is read. -/
theorem resetDiscardsEverythingInFlight : Obligations.ResetDiscardsEverythingInFlight := by
  intro s v q later
  rw [step_of_rst rfl rfl, resetCycle_eq_resetWith]

/-- Settles O43 (R34, R6). -/
theorem resetLeavesNothingInFlight : Obligations.ResetLeavesNothingInFlight :=
  ⟨fun _ => ⟨rfl, List.length_replicate, fun _ => List.eq_of_mem_replicate, rfl, rfl⟩,
    rfl, rfl, rfl, rfl, rfl⟩

end

/-! ### Requests as the host presents them (spec/10_state.md R26, R28) -/

namespace Sys2Proof.Machine

/-! #### The fields a request does not use (R26, R70) -/

/-- The answer to a request is one of its code and of the fields its operation reads. -/
theorem answerOf_instr_congr {cfg : Params} {q q' : Request} (hop : q.op = q'.op)
    (hparse : q.op = 0#2 → q.txtLen = q'.txtLen ∧ (q.txtLen = 36 → q.txt = q'.txt))
    (hformat : q.op = 1#2 → q.hi = q'.hi ∧ q.lo = q'.lo)
    (hgen : q.op = 2#2 ∨ q.op = 3#2 → q.rnd = q'.rnd) :
    answerOf cfg q.instr = answerOf cfg q'.instr := by
  obtain ⟨hcode, hinstr⟩ | ⟨hcode, hinstr⟩ | ⟨hcode, hinstr⟩ | ⟨hcode, hinstr⟩ := instr_cases q
  · obtain ⟨hlen, htxt⟩ := hparse hcode
    rw [hinstr, instr_of_op_parse (hop ▸ hcode), ← hlen]
    exact parseAnswer_congr rfl htxt
  · obtain ⟨hhi, hlo⟩ := hformat hcode
    rw [hinstr, instr_of_op_format (hop ▸ hcode), hhi, hlo]
  · rw [hinstr, instr_of_op_v4gen (hop ▸ hcode), hgen (.inl hcode)]
  · rw [hinstr, instr_of_op_v4gens (hop ▸ hcode), hgen (.inr hcode)]

theorem step_of_wellFormed {s : State} {q : Request} (hwf : q.instr.WellFormed s.cfg)
    (later : List PortsIn) :
    step { s with inputs := ⟨false, true, q⟩ :: later }
      = .next (State.cycle { s with inputs := later } (some (answerOf s.cfg q.instr).drive)) := by
  rw [step_of_decode (decode_eq_ok_of_wellFormed rfl hwf), exec_eq_cycle_answerOf]

/-! #### A text as the host owes to present it (R28) -/

theorem presentLen_lt (cfg : Params) (n : Nat) : presentLen cfg n < 2 ^ cfg.lenW := by
  have hpos : 0 < 2 ^ cfg.lenW := Nat.two_pow_pos _
  rw [presentLen]
  omega

/-- LEN_W has room for 36 and for a longer length (R6), so saturation makes no other length 36. -/
theorem presentLen_eq_iff {cfg : Params} (hwf : cfg.wf = true) {n : Nat} :
    presentLen cfg n = 36 ↔ n = 36 := by
  obtain ⟨-, hwidth⟩ := params_wf_iff.mp hwf
  have hroom : 2 ^ 6 ≤ 2 ^ cfg.lenW := Nat.pow_le_pow_right (by decide) hwidth
  rw [presentLen]
  omega

theorem presentLanes_getElem (t : List Nat) (rest : Text) (p : Fin 36) :
    (presentLanes t rest)[p] = t.getD p.val rest[p] := by
  simp [presentLanes]

/-- Every lane holds a code unit of the text or what it held before. -/
theorem lanesFit_presentLanes {cfg : Params} {t : List Nat} {rest : Text}
    (ht : ∀ c ∈ t, c < 2 ^ cfg.charW) (hrest : LanesFit cfg rest) :
    LanesFit cfg (presentLanes t rest) := by
  intro p
  rw [presentLanes_getElem]
  obtain hin | hout := Nat.lt_or_ge p.val t.length
  · rw [List.getD_eq_getElem _ _ hin]
    exact ht _ (List.getElem_mem hin)
  · rw [List.getD_eq_default _ _ hout]
    exact hrest p

/-- A text of 36 code units fills the lanes. -/
theorem toList_presentLanes {t : List Nat} (hlen : t.length = 36) (rest : Text) :
    (presentLanes t rest).toList = t := by
  apply List.ext_getElem
  · rw [Vector.length_toList, hlen]
  · intro i hi hit
    rw [Vector.getElem_toList]
    exact (presentLanes_getElem t rest ⟨i, by omega⟩).trans (List.getD_eq_getElem _ _ hit)

/-- The decoder reads a presented text as a PARSE of its lanes. -/
theorem decode_presentText {cfg : Params} {t : List Nat} {rest : Request}
    (ht : ∀ c ∈ t, c < 2 ^ cfg.charW) (hrest : LanesFit cfg rest.txt) :
    decode cfg (presentText cfg t rest)
      = .ok (.parse (presentLen cfg t.length) (presentLanes t rest.txt)) :=
  decode_eq_ok_of_wellFormed (instr_of_op_parse rfl)
    (wellFormed_parse_iff.mpr ⟨presentLen_lt cfg _, lanesFit_presentLanes ht hrest⟩)

/-! #### The host stops presenting requests (R161) -/

/-- The queue of a cycle determines the state after it. -/
theorem cycle_eq_of_queue {s : State} {a oldest : Option Response} {rest : List (Option Response)}
    (hqueue : s.pipe ++ [a] = oldest :: rest) :
    s.cycle a = { s with pipe := rest, rsp := oldest } := by
  obtain ⟨hrsp, hpipe⟩ := List.cons.inj ((cycle_rsp_pipe s a).trans hqueue)
  calc s.cycle a
      = ⟨(s.cycle a).cfg, (s.cycle a).inputs, (s.cycle a).pipe, (s.cycle a).rsp⟩ := rfl
    _ = { s with pipe := rest, rsp := oldest } := by rw [cycle_cfg, cycle_inputs, hpipe, hrsp]

theorem run_core_of_step {s t : State} (hstep : step s = .next t) (n : Nat) :
    Host.Core.run Sys2Proof.core (n + 1) s = Host.Core.run Sys2Proof.core n t :=
  run_of_step (M := Sys2Proof.core) hstep n

/-- Each idle cycle presents the head of the pipeline and puts an empty entry behind the others, so that
only empty entries are left when all those before them have been presented. -/
theorem run_drain {s : State} (hin : s.inputs = []) {busy : List (Option Response)} {free : Nat}
    (hpipe : s.pipe = busy ++ List.replicate free none) :
    Host.Core.run Sys2Proof.core (busy.length + 1) s
      = .next { s with pipe := List.replicate (busy.length + free) none, rsp := none } := by
  induction busy generalizing s free with
  | nil =>
    have hqueue : s.pipe ++ [none] = none :: List.replicate free none := by
      rw [hpipe, List.nil_append, ← List.replicate_succ', List.replicate_succ]
    rw [run_core_of_step (step_of_no_inputs hin), cycle_eq_of_queue hqueue, List.length_nil,
      Nat.zero_add]
    rfl
  | cons oldest busy ih =>
    have hqueue : s.pipe ++ [none] = oldest :: (busy ++ List.replicate (free + 1) none) := by
      rw [hpipe, List.append_assoc, ← List.replicate_succ', List.cons_append]
    have hrest := ih (s := { s with pipe := busy ++ List.replicate (free + 1) none, rsp := oldest })
      hin rfl
    rw [run_core_of_step (step_of_no_inputs hin), cycle_eq_of_queue hqueue, List.length_cons, hrest,
      Nat.add_right_comm busy.length 1 free, Nat.add_assoc]

end Sys2Proof.Machine

section

open Sys2Proof Sys2Proof.Machine

/-- Settles O37 (R26, R70): both requests get one answer, which enters the pipeline of one state. -/
theorem ignoredRequestFieldsHaveNoEffect : Obligations.IgnoredRequestFieldsHaveNoEffect := by
  intro s q q' later hwf hwf' hop hparse hformat hgen
  exact ⟨_, step_of_wellFormed hwf later, by
    rw [step_of_wellFormed hwf' later, answerOf_instr_congr hop hparse hformat hgen]⟩

/-- Settles O25 (R28): the lanes fit, so PARSE runs on them; the presented length is 36 only for 36 code
units, and these fill the lanes. -/
theorem presentedTextReachesParse : Obligations.PresentedTextReachesParse := by
  intro s t rest later hcfg ht hrest
  rw [step_of_decode (decode_presentText ht hrest)]
  refine ⟨fun hlen => ?_, fun hlen => ?_⟩
  · have hne : presentLen s.cfg t.length ≠ 36 := mt (presentLen_eq_iff hcfg).mp hlen
    rw [exec_parse_eq_iff, parseAnswer_of_length_ne hne]
    rfl
  · rw [(presentLen_eq_iff hcfg).mpr hlen]
    exact ⟨_, toList_presentLanes hlen _, rfl⟩

/-- Settles O49 (R161): LATENCY + 1 idle cycles present all that was in flight and the empty entry behind
it. -/
theorem drainedBlockIsInItsResetState : Obligations.DrainedBlockIsInItsResetState := by
  intro s hlen hin
  have hdrain := run_drain hin (busy := s.pipe) (free := 0) (List.append_nil _).symm
  rw [Nat.add_zero, hlen, hin] at hdrain
  exact hdrain

end

/-! ### Tables, positions and groups (spec/20_memory.md R41 to R44, spec/30_encoding.md R61 to R65) -/

namespace Sys2Proof.Machine

theorem bits_extract_high (u : UUID) (lo len : Nat) :
    u.bits.extractLsb' (lo + 64) len = u.high.extractLsb' lo len := by
  rw [UUID.bits, BitVec.extractLsb'_append_eq_of_le (Nat.le_add_left 64 lo), Nat.add_sub_cancel]

theorem bits_extract_low (u : UUID) {lo len : Nat} (hin : lo + len ≤ 64) :
    u.bits.extractLsb' lo len = u.low.extractLsb' lo len := by
  rw [UUID.bits, BitVec.extractLsb'_append_eq_of_add_le hin]

/-- Among the valid characters only `0` has the value 0. -/
theorem hexval_eq_zero_iff (c : Nat) : hexval c = some 0#4 ↔ c = 0x30 := by
  have hzero : (0#4).toNat = 0 := rfl
  rw [hexval_eq_some_iff, hzero]
  omega

theorem not_upper_hexchr (n : Nibble) : ¬ (0x41 ≤ hexchr n ∧ hexchr n ≤ 0x5A) := by
  have hrange := hexchr_range n
  omega

theorem mem_digitPos_iff_not_mem_sepPos (p : Fin 36) : p ∈ digitPos ↔ p ∉ sepPos := by
  decide +revert

theorem posOf_lt_posOf {j k : Fin 32} (hlt : j < k) : posOf j < posOf k := by
  decide +revert

end Sys2Proof.Machine

section

open Sys2Proof Sys2Proof.Machine

/-- Settles O2 (R42): the two branches of HEXCHR, neither of which reaches an uppercase letter. -/
theorem hexchrIsLowercaseAndHexvalInvertsIt : Obligations.HexchrIsLowercaseAndHexvalInvertsIt := by
  intro n
  obtain ⟨hle, hcode⟩ | ⟨hge, hcode⟩ := hexchr_cases n
  · exact ⟨fun _ => hcode, fun _ => by omega, not_upper_hexchr n, hexval_hexchr n⟩
  · exact ⟨fun _ => by omega, fun _ => hcode, not_upper_hexchr n, hexval_hexchr n⟩

/-- Settles O3 (R43): by the ranges of HEXVAL. -/
theorem onlyTheZeroCharacterReadsAsZero : Obligations.OnlyTheZeroCharacterReadsAsZero :=
  hexval_eq_zero_iff

/-- Settles O4 (R7, R64, R65). -/
theorem nibblePositionsAreInverse : Obligations.NibblePositionsAreInverse := by
  refine ⟨mem_digitPos_iff_not_mem_sepPos, fun k => ⟨posOf_mem_digitPos k, nibbleAt_posOf k⟩,
    fun p hp => ?_, fun j k => posOf_lt_posOf⟩
  obtain ⟨k, rfl⟩ := exists_posOf_eq_of_mem_digitPos hp
  exact ⟨k, (nibbleAt_posOf k).symm, rfl⟩

/-- Settles O5 (R44, R111): the nibble extracted is the slice of the value, which lies in `high` for the
first 16 nibbles and in `low` for the others. -/
theorem nibbleExtractionIsItsSlice : Obligations.NibbleExtractionIsItsSlice := by
  intro u k
  refine ⟨nibble_eq_sliceOf u k, fun hk => ?_, fun hk => ?_⟩
  · exact nibble_hiIndex u ⟨k.val, by omega⟩
  · have hindex : k = loIndex ⟨k.val - 16, by omega⟩ := Fin.ext (Nat.sub_add_cancel hk).symm
    conv_lhs => rw [hindex]
    exact nibble_loIndex u _

/-- Settles O6 (R61): the nibbles of a group are neighbouring slices of the value, and no group crosses from
`high` into `low`. -/
theorem groupsAreTheirBitRanges : Obligations.GroupsAreTheirBitRanges := by
  intro u
  refine ⟨⟨?_, bits_extract_high u 32 32⟩, ⟨?_, bits_extract_high u 16 16⟩,
    ⟨?_, bits_extract_high u 0 16⟩, ⟨?_, bits_extract_low u (by decide)⟩,
    ⟨?_, bits_extract_low u (by decide)⟩, by decide⟩
  all_goals
    simp (disch := decide) only [sliceOf, BitVec.extractLsb'_append_extractLsb'_eq_extractLsb']
    rfl

end

/-! ### The value PARSE answers (spec/40_parse.md R96, R105) -/

namespace Sys2Proof.Machine

theorem rowValue_inj {u u' : UUID} :
    rowValue u.high u.low = rowValue u'.high u'.low ↔ u = u' := by
  refine ⟨fun h => ?_, fun h => h ▸ rfl⟩
  have hhigh : u.high = u'.high := congrArg Response.hi h
  have hlow : u.low = u'.low := congrArg Response.lo h
  cases u; cases u'; cases hhigh; cases hlow; rfl

/-- Of the answers that are no text only the value itself drives its row. -/
theorem drive_eq_rowValue_iff {a : Answer} (ha : ∀ t, a ≠ .text t) {u : UUID} :
    a.drive = rowValue u.high u.low ↔ a = .value u := by
  refine ⟨fun h => ?_, fun h => h ▸ drive_value u⟩
  have hstatus := congrArg Response.status h
  cases a with
  | value u' => exact congrArg Answer.value (rowValue_inj.mp h)
  | text t => exact absurd rfl (ha t)
  | invalidFormat c => cases c <;> cases hstatus
  | badOp => cases hstatus

theorem parseAnswer_ne_text (cfg : Params) (len : Nat) (t t' : Text) :
    parseAnswer cfg len t ≠ .text t' := by
  obtain ⟨-, ha⟩ | ⟨-, -, p, -, ha⟩ | ⟨-, -, p, -, ha⟩ | ⟨-, -, u, ha⟩ :=
    parseAnswer_outcomes cfg len t
  all_goals rw [ha]; nofun

theorem uuidOfNibbles_eq_iff {v : Fin 32 → Nibble} {u : UUID} :
    uuidOfNibbles v = u ↔ v = sliceOf u := by
  constructor
  · rintro rfl
    exact funext fun k => (sliceOf_uuidOfNibbles v k).symm
  · rintro rfl
    exact uuidOfNibbles_sliceOf u

/-- R90, R96, R105: the value of PARSE is the one whose nibbles are the digits of the text. -/
theorem exec_parse_eq_rowValue_iff {s : State} {len : Nat} {t : Text} {u : UUID} :
    exec (.parse len t) s = .next (s.cycle (some (rowValue u.high u.low))) ↔
      len = 36 ∧ (s.cfg.strictHyphens = true → SeparatorsOk t) ∧
        ∀ k, hexval t[posOf k] = some (sliceOf u k) := by
  constructor
  · rw [exec_parse_eq_iff, drive_eq_rowValue_iff (parseAnswer_ne_text _ _ _)]
    intro h
    obtain ⟨-, ha⟩ | ⟨-, -, p, -, ha⟩ | ⟨-, -, p, -, ha⟩ | ⟨hlen, ⟨hsep, hdigits⟩, u', ha⟩ :=
      parseAnswer_outcomes s.cfg len t
    · cases ha.symm.trans h
    · cases ha.symm.trans h
    · cases ha.symm.trans h
    · obtain ⟨v, hv⟩ := digitsOk_iff_exists_nibbles.mp hdigits
      rw [hlen, parseAnswer_of_separatorsOk hsep, decodeDigits_of_digits hv, Answer.value.injEq,
        uuidOfNibbles_eq_iff] at h
      exact ⟨hlen, hsep, h ▸ hv⟩
  · rintro ⟨rfl, hsep, hv⟩
    rw [exec_parse_of_digits hsep hv, uuidOfNibbles_sliceOf]

/-- 32 valid digits are the nibbles of one value. -/
theorem digitsOk_iff_exists_value {t : Text} :
    DigitsOk t ↔ ∃ u : UUID, ∀ k, hexval t[posOf k] = some (sliceOf u k) := by
  rw [digitsOk_iff_exists_nibbles]
  constructor
  · rintro ⟨v, hv⟩
    exact ⟨uuidOfNibbles v, fun k => by rw [sliceOf_uuidOfNibbles, hv k]⟩
  · rintro ⟨u, hu⟩
    exact ⟨sliceOf u, hu⟩

/-! #### Words as sums (R45, R96) -/

/-- Packed lanes are the sum of the lanes by powers of the base. -/
theorem packLanes_ofFn (b : Nat) {n : Nat} (f : Fin n → Nat) :
    packLanes b (List.ofFn f) = ∑ i : Fin n, f i * b ^ (n - 1 - i.val) := by
  induction n with
  | zero => rfl
  | succ n ih =>
    have hplace (i : Fin n) : n - i.succ.val = n - 1 - i.val := by
      rw [Fin.val_succ]; omega
    rw [List.ofFn_succ, packLanes, ih, List.length_ofFn, Fin.sum_univ_succ]
    simp only [Nat.add_sub_cancel, Fin.val_zero, Nat.sub_zero, hplace]

theorem mergeNibble_toNat (w : Word) (v : Nibble) :
    (mergeNibble w v).toNat = (w.toNat * 16 + v.toNat) % 2 ^ 64 := by
  have hshift : (w <<< 4).toNat = (w.toNat % 2 ^ 60) <<< 4 := by
    rw [BitVec.toNat_shiftLeft, Nat.shiftLeft_eq, Nat.shiftLeft_eq]; omega
  rw [mergeNibble, BitVec.toNat_or, hshift, BitVec.toNat_setWidth_of_le (by decide),
    ← Nat.shiftLeft_add_eq_or_of_lt v.isLt, Nat.shiftLeft_eq]
  omega

/-- Nibbles merged into a word are digits of base 16, the oldest bits dropped. -/
theorem foldl_mergeNibble_toNat (vs : List Nibble) :
    (vs.foldl mergeNibble 0#64).toNat = packLanes 16 (vs.map (·.toNat)) % 2 ^ 64 := by
  induction vs using List.reverseRecOn with
  | nil => rfl
  | append_singleton vs v ih =>
    rw [List.foldl_append, List.foldl_cons, List.foldl_nil, mergeNibble_toNat, ih, List.map_append,
      packLanes_append]
    simp [packLanes, Nat.add_mod, Nat.mul_mod]

theorem wordOfNibbles_toNat (v : Fin 16 → Nibble) :
    (wordOfNibbles v).toNat = ∑ k : Fin 16, (v k).toNat * 16 ^ (15 - k.val) := by
  have hfold : wordOfNibbles v = (List.ofFn v).foldl mergeNibble 0#64 := by
    rw [wordOfNibbles, List.ofFn_eq_map, List.foldl_map]
  have hdigits : (List.ofFn v).map (·.toNat) = List.ofFn fun k => (v k).toNat := List.map_ofFn
  have hlanes : ∀ c ∈ List.ofFn fun k => (v k).toNat, c < 16 := by
    rw [List.forall_mem_ofFn_iff]
    exact fun k => (v k).isLt
  have hlt : packLanes 16 (List.ofFn fun k => (v k).toNat) < 2 ^ 64 := by
    simpa using packLanes_lt hlanes
  rw [hfold, foldl_mergeNibble_toNat, hdigits, Nat.mod_eq_of_lt hlt, packLanes_ofFn]

end Sys2Proof.Machine

section

open Sys2Proof Sys2Proof.Machine

/-- Settles O16 (R96): the value spelt is the one whose nibbles the digits are. -/
theorem parseOfAcceptedTextGivesItsValue : Obligations.ParseOfAcceptedTextGivesItsValue :=
  fun _ _ _ hsep hdigits => exec_parse_eq_rowValue_iff.mpr ⟨rfl, hsep, hdigits⟩

/-- Settles O17 (R96): each word is the number its 16 digits write in base 16. -/
theorem parseWordsAreTheDigitSums : Obligations.ParseWordsAreTheDigitSums :=
  fun _ _ v hsep hv => ⟨_, _, exec_parse_of_digits hsep hv,
    wordOfNibbles_toNat fun k => v (hiIndex k), wordOfNibbles_toNat fun k => v (loIndex k)⟩

/-- Settles O18 (R90, R100, R105): valid digits are the nibbles of one value, and PARSE answers a value only
past all three checks. -/
theorem parseSucceedsExactlyOnAcceptedTexts : Obligations.ParseSucceedsExactlyOnAcceptedTexts := by
  intro s len txt
  refine ⟨⟨?_, ?_⟩, fun u h => ?_⟩
  · rintro ⟨hi, lo, h⟩
    obtain ⟨hlen, hsep, hdigits⟩ := exec_parse_eq_rowValue_iff (u := ⟨hi, lo⟩).mp h
    exact ⟨hlen, hsep, digitsOk_iff_exists_value.mpr ⟨_, hdigits⟩⟩
  · rintro ⟨hlen, hsep, hdigits⟩
    obtain ⟨u, hu⟩ := digitsOk_iff_exists_value.mp hdigits
    exact ⟨u.high, u.low, exec_parse_eq_rowValue_iff.mpr ⟨hlen, hsep, hu⟩⟩
  · obtain ⟨-, -, hdigits⟩ := exec_parse_eq_rowValue_iff.mp h
    exact hdigits

end

/-! ### FORMAT as the inverse of PARSE (spec/41_format.md R116, R117) -/

namespace Sys2Proof.Machine

/-- HEXCHR of a digit's value is the digit in lowercase (R63). -/
theorem hexchr_of_hexval {c : Nat} {v : Nibble} (h : hexval c = some v) : hexchr v = toLower c := by
  have hcode := hexchr_cases v
  rw [hexval_eq_some_iff] at h
  unfold toLower
  split_ifs <;> omega

theorem toLower_hyphen : toLower 0x2D = 0x2D := rfl

/-- At the digits of a text that spells a value, FORMAT of the value has them in lowercase. -/
theorem formatText_eq_toLower {t : Text} {u : UUID}
    (hu : ∀ k, hexval t[posOf k] = some (sliceOf u k)) {p : Fin 36} (hp : p ∈ digitPos) :
    (formatText u)[p] = toLower t[p] := by
  obtain ⟨k, rfl⟩ := exists_posOf_eq_of_mem_digitPos hp
  rw [formatText_posOf, hexchr_of_hexval (hu k)]

/-- With the separators in place the whole formatted text is the text in lowercase. -/
theorem formatText_eq_toLower_of_separatorsOk {t : Text} {u : UUID}
    (hu : ∀ k, hexval t[posOf k] = some (sliceOf u k)) (hsep : SeparatorsOk t) (p : Fin 36) :
    (formatText u)[p] = toLower t[p] := by
  obtain hp | ⟨k, rfl⟩ := mem_sepPos_or_exists_posOf_eq p
  · rw [separatorsOk_formatText u p hp, hsep p hp, toLower_hyphen]
  · exact formatText_eq_toLower hu (posOf_mem_digitPos k)

/-- PARSE reads the value back, so the text tells it (R114). -/
theorem formatText_injective : Function.Injective formatText := by
  intro u u' h
  apply uuid_eq_of_sliceOf_eq
  intro k
  have hdigit : hexval (formatText u)[posOf k] = hexval (formatText u')[posOf k] := by rw [h]
  rwa [formatText_posOf, formatText_posOf, hexval_hexchr, hexval_hexchr, Option.some_inj] at hdigit

theorem rowText_inj {t t' : Text} : rowText t = rowText t' ↔ t = t' :=
  ⟨fun h => congrArg Response.txt h, fun h => congrArg rowText h⟩

theorem exec_format_eq_iff {s : State} {hi lo : Word} {t : Text} :
    exec (.format hi lo) s = .next (s.cycle (some (rowText t))) ↔ formatText ⟨hi, lo⟩ = t := by
  rw [exec_format_eq]
  constructor
  · intro h
    exact rowText_inj.mp (Option.some_inj.mp (cycle_injective s (Host.Outcome.next.inj h)))
  · rintro rfl
    rfl

/-- The digits of a canonical text are valid. -/
theorem isSome_hexval_of_lowercase {c : Nat}
    (hc : (0x30 ≤ c ∧ c ≤ 0x39) ∨ (0x61 ≤ c ∧ c ≤ 0x66)) : (hexval c).isSome = true := by
  unfold hexval
  split_ifs
  · rfl
  · rfl
  · rfl
  · omega

/-- A canonical text has no uppercase letter. -/
theorem toLower_of_canonical {t : Text} (ht : Canonical t) (p : Fin 36) : toLower t[p] = t[p] := by
  obtain ⟨hsep, hdigit⟩ := ht
  obtain hp | ⟨k, rfl⟩ := mem_sepPos_or_exists_posOf_eq p
  · rw [hsep p hp, toLower_hyphen]
  · have hcode := hdigit _ (posOf_mem_digitPos k)
    exact if_neg (by omega)

/-- R117: the texts of FORMAT are the canonical ones. -/
theorem exists_formatText_eq_iff {t : Text} : (∃ u, formatText u = t) ↔ Canonical t := by
  constructor
  · rintro ⟨u, rfl⟩
    exact canonical_formatText u
  · rintro ⟨hsep, hdigit⟩
    obtain ⟨u, hu⟩ := digitsOk_iff_exists_value.mp fun p hp => isSome_hexval_of_lowercase (hdigit p hp)
    refine ⟨u, Vector.ext fun i hi => ?_⟩
    exact (formatText_eq_toLower_of_separatorsOk hu hsep ⟨i, hi⟩).trans
      (toLower_of_canonical ⟨hsep, hdigit⟩ ⟨i, hi⟩)

end Sys2Proof.Machine

section

open Sys2Proof Sys2Proof.Machine

/-- Settles O28 (R116): FORMAT writes each digit of the value PARSE gives in lowercase. -/
theorem formatOfParseIsTheLowercaseText : Obligations.FormatOfParseIsTheLowercaseText := by
  rintro s s' txt ⟨hsep, hdigits⟩
  obtain ⟨u, hu⟩ := digitsOk_iff_exists_value.mp hdigits
  exact ⟨u.high, u.low, formatText u, exec_parse_eq_rowValue_iff.mpr ⟨rfl, hsep, hu⟩,
    exec_format_eq s' _ _, fun p hp => formatText_eq_toLower hu hp, separatorsOk_formatText u,
    fun hstrict => formatText_eq_toLower_of_separatorsOk hu (hsep hstrict)⟩

/-- Settles O29 (R117): a value is told by its text, and the digits of a canonical text are those of some
value. -/
theorem formatIsInjectiveOntoCanonicalTexts : Obligations.FormatIsInjectiveOntoCanonicalTexts := by
  refine ⟨fun s hi lo hi' lo' h => ?_, fun s t => ?_⟩
  · rw [exec_format_eq s hi' lo', exec_format_eq_iff] at h
    exact UUID.mk.inj (formatText_injective h)
  · simp only [exec_format_eq_iff, ← exists_formatText_eq_iff]
    exact ⟨fun ⟨hi, lo, h⟩ => ⟨⟨hi, lo⟩, h⟩, fun ⟨u, h⟩ => ⟨u.high, u.low, h⟩⟩

end

/-! ### The generated value (spec/42_v4gen.md R125, R127, R129) -/

namespace Sys2Proof.Machine

/-! #### Slices of slices (R44, R66) -/

theorem extract_extract {w : Nat} (x : BitVec w) {lo len lo' len' : Nat} (hin : lo' + len' ≤ len) :
    (x.extractLsb' lo len).extractLsb' lo' len' = x.extractLsb' (lo + lo') len' := by
  ext i hi
  have hbit : lo' + i < len := by omega
  simp [hbit, Nat.add_assoc]

/-- A word is told by its upper bits and its lower bits. -/
theorem eq_of_extract_eq {m n w : Nat} (hw : m + n = w) {x y : BitVec w}
    (hupper : x.extractLsb' n m = y.extractLsb' n m)
    (hlower : x.extractLsb' 0 n = y.extractLsb' 0 n) : x = y := by
  subst hw
  have hsplit (z : BitVec (m + n)) : z.extractLsb' n m ++ z.extractLsb' 0 n = z := by
    rw [BitVec.extractLsb'_append_extractLsb'_eq_extractLsb' (Nat.zero_add n).symm,
      BitVec.extractLsb'_eq_self]
  rw [← hsplit x, hupper, hlower, hsplit]

/-- Each byte of a value is two of its nibbles, the even one in the upper half. -/
theorem sliceOf_eq_extract_byteAt (u : UUID) (k : Fin 32) :
    sliceOf u k = (byteAt u ⟨k.val / 2, by omega⟩).extractLsb' (4 - 4 * (k.val % 2)) 4 := by
  rw [sliceOf, byteAt, extract_extract _ (by omega)]
  congr 1
  dsimp only
  omega

/-- A value is told by its 16 bytes. -/
theorem uuid_eq_of_byteAt_eq {u u' : UUID} (h : ∀ i, byteAt u i = byteAt u' i) : u = u' :=
  uuid_eq_of_sliceOf_eq fun k => by
    rw [sliceOf_eq_extract_byteAt, sliceOf_eq_extract_byteAt, h]

/-! #### The fix-up in word form (R125) -/

/-- The bits of a value that the fix-up keeps. -/
def keptBits : UUID := ⟨0xFFFFFFFFFFFF0FFF#64, 0x3FFFFFFFFFFFFFFF#64⟩

/-- The bits that the fix-up sets: version 4, variant 10. -/
def setBits : UUID := ⟨0x0000000000004000#64, 0x8000000000000000#64⟩

/-- The fix-up of a packed value, mask and OR on both words. -/
def wordForm (u : UUID) : UUID :=
  { high := (u.high &&& keptBits.high) ||| setBits.high
    low := (u.low &&& keptBits.low) ||| setBits.low }

theorem byteAt_wordForm (u : UUID) (i : Fin 16) :
    byteAt (wordForm u) i = (byteAt u i &&& byteAt keptBits i) ||| byteAt setBits i := by
  have hbits : (wordForm u).bits = (u.bits &&& keptBits.bits) ||| setBits.bits :=
    ((congrArg (· ||| setBits.bits) BitVec.and_append).trans BitVec.or_append).symm
  rw [byteAt, hbits, BitVec.extractLsb'_or, BitVec.extractLsb'_and]
  rfl

theorem byteAt_keptBits_six : byteAt keptBits 6 = 0x0F#8 := by decide
theorem byteAt_keptBits_eight : byteAt keptBits 8 = 0x3F#8 := by decide
theorem byteAt_setBits_six : byteAt setBits 6 = 0x40#8 := by decide
theorem byteAt_setBits_eight : byteAt setBits 8 = 0x80#8 := by decide

theorem byteAt_keptBits_of_ne {i : Fin 16} (h6 : i ≠ 6) (h8 : i ≠ 8) :
    byteAt keptBits i = BitVec.allOnes 8 := by
  decide +revert

theorem byteAt_setBits_of_ne {i : Fin 16} (h6 : i ≠ 6) (h8 : i ≠ 8) : byteAt setBits i = 0#8 := by
  decide +revert

/-- The two fix-ups of single bytes, told apart from the bytes that are kept (R122, R123). -/
theorem byteAt_v4fix (r : Rnd) (i : Fin 16) :
    (i = 6 ∧ byteAt (v4fix r) i = fixVersion r[6]) ∨ (i = 8 ∧ byteAt (v4fix r) i = fixVariant r[8]) ∨
      (i ≠ 6 ∧ i ≠ 8 ∧ byteAt (v4fix r) i = r[i]) := by
  by_cases h6 : i = 6
  · exact .inl ⟨h6, h6 ▸ byteAt_v4fix_six r⟩
  · by_cases h8 : i = 8
    · exact .inr (.inl ⟨h8, h8 ▸ byteAt_v4fix_eight r⟩)
    · exact .inr (.inr ⟨h6, h8, byteAt_v4fix_of_ne r h6 h8⟩)

/-- R125: fixing two bytes and packing is packing and masking the words. -/
theorem v4fix_eq_wordForm (r : Rnd) : v4fix r = wordForm (packBytes r) := by
  apply uuid_eq_of_byteAt_eq
  intro i
  rw [byteAt_wordForm, byteAt_packBytes]
  obtain ⟨rfl, hbyte⟩ | ⟨rfl, hbyte⟩ | ⟨h6, h8, hbyte⟩ := byteAt_v4fix r i
  · rw [hbyte, byteAt_keptBits_six, byteAt_setBits_six]; rfl
  · rw [hbyte, byteAt_keptBits_eight, byteAt_setBits_eight]; rfl
  · rw [hbyte, byteAt_keptBits_of_ne h6 h8, byteAt_setBits_of_ne h6 h8, BitVec.and_allOnes,
      BitVec.or_zero]

/-! #### The six bits without effect (R125) -/

theorem fixVersion_congr {b b' : Byte} (h : b.extractLsb' 0 4 = b'.extractLsb' 0 4) :
    fixVersion b = fixVersion b' := by
  apply eq_of_extract_eq (show 4 + 4 = 8 from rfl)
  · rw [fixVersion_extract_version, fixVersion_extract_version]
  · rw [fixVersion_extract_random, fixVersion_extract_random, h]

theorem fixVariant_congr {b b' : Byte} (h : b.extractLsb' 0 6 = b'.extractLsb' 0 6) :
    fixVariant b = fixVariant b' := by
  apply eq_of_extract_eq (show 2 + 6 = 8 from rfl)
  · rw [fixVariant_extract_variant, fixVariant_extract_variant]
  · rw [fixVariant_extract_random, fixVariant_extract_random, h]

/-- The fix-up reads no version bit and no variant bit. -/
theorem v4fix_congr {r r' : Rnd} (hbytes : ∀ i : Fin 16, i ≠ 6 → i ≠ 8 → r[i] = r'[i])
    (hversion : r[6].extractLsb' 0 4 = r'[6].extractLsb' 0 4)
    (hvariant : r[8].extractLsb' 0 6 = r'[8].extractLsb' 0 6) : v4fix r = v4fix r' := by
  apply uuid_eq_of_byteAt_eq
  intro i
  obtain ⟨rfl, hbyte⟩ | ⟨rfl, hbyte⟩ | ⟨h6, h8, hbyte⟩ := byteAt_v4fix r i
  · rw [hbyte, byteAt_v4fix_six, fixVersion_congr hversion]
  · rw [hbyte, byteAt_v4fix_eight, fixVariant_congr hvariant]
  · rw [hbyte, byteAt_v4fix_of_ne r' h6 h8, hbytes i h6 h8]

theorem bytesOf_getElem (u : UUID) (i : Fin 16) : (bytesOf u)[i] = byteAt u i := by
  simp [bytesOf]

/-- The bytes of a generated value differ from the random ones in the six replaced bits at most. -/
theorem v4fix_bytesOf_v4fix (r : Rnd) : v4fix (bytesOf (v4fix r)) = v4fix r := by
  apply v4fix_congr
  · intro i h6 h8
    rw [bytesOf_getElem, byteAt_v4fix_of_ne r h6 h8]
  · have hbyte : (bytesOf (v4fix r))[6] = fixVersion r[6] :=
      (bytesOf_getElem _ 6).trans (byteAt_v4fix_six r)
    rw [hbyte, fixVersion_extract_random]
  · have hbyte : (bytesOf (v4fix r))[8] = fixVariant r[8] :=
      (bytesOf_getElem _ 8).trans (byteAt_v4fix_eight r)
    rw [hbyte, fixVariant_extract_random]

/-! #### The raw words as sums (R45) -/

theorem packWord_ofFn_toNat (f : Fin 8 → Byte) :
    (packWord (List.ofFn f)).toNat = ∑ i : Fin 8, (f i).toNat * 256 ^ (7 - i.val) := by
  have hmap : (List.ofFn f).map (·.toNat) = List.ofFn fun i => (f i).toNat := List.map_ofFn
  rw [packWord_toNat_of_length_le (by rw [List.length_ofFn]), hmap, packLanes_ofFn]

theorem packBytes_high_toNat (r : Rnd) : (packBytes r).high.toNat
    = ∑ i : Fin 8, (r[i.val]'(by omega)).toNat * 256 ^ (7 - i.val) :=
  packWord_ofFn_toNat fun i => r[i.val]'(by omega)

theorem packBytes_low_toNat (r : Rnd) : (packBytes r).low.toNat
    = ∑ i : Fin 8, (r[i.val + 8]'(by omega)).toNat * 256 ^ (7 - i.val) :=
  packWord_ofFn_toNat fun i => r[i.val + 8]'(by omega)

/-! #### Version and variant in the value and in its text (R67, R127) -/

theorem sliceOf_v4fix_version (r : Rnd) : sliceOf (v4fix r) 12 = 0b0100#4 := by
  have hslice : sliceOf (v4fix r) 12 = (byteAt (v4fix r) 6).extractLsb' 4 4 :=
    sliceOf_eq_extract_byteAt _ _
  rw [hslice, byteAt_v4fix_six, fixVersion_extract_version]

theorem sliceOf_v4fix_variant (r : Rnd) : (sliceOf (v4fix r) 16).extractLsb' 2 2 = 0b10#2 := by
  have hslice : sliceOf (v4fix r) 16 = (byteAt (v4fix r) 8).extractLsb' 4 4 :=
    sliceOf_eq_extract_byteAt _ _
  rw [hslice, byteAt_v4fix_eight, extract_extract _ (by decide), fixVariant_extract_variant]

theorem high_extract_version (r : Rnd) : (v4fix r).high.extractLsb' 12 4 = 0b0100#4 :=
  (sliceOf_hiIndex (v4fix r) 12).symm.trans (sliceOf_v4fix_version r)

theorem low_extract_variant (r : Rnd) : (v4fix r).low.extractLsb' 62 2 = 0b10#2 := by
  have hslice : sliceOf (v4fix r) 16 = (v4fix r).low.extractLsb' 60 4 :=
    sliceOf_loIndex (v4fix r) 0
  have hvariant := sliceOf_v4fix_variant r
  rwa [hslice, extract_extract _ (by decide)] at hvariant

theorem formatText_v4fix_version (r : Rnd) : (formatText (v4fix r))[14] = 0x34 := by
  have hchar : (formatText (v4fix r))[14] = hexchr (sliceOf (v4fix r) 12) := formatText_posOf _ 12
  rw [hchar, sliceOf_v4fix_version]
  rfl

/-- The characters of the nibbles 8 to b (R67). -/
theorem hexchr_of_variant {n : Nibble} (hn : n.extractLsb' 2 2 = 0b10#2) :
    hexchr n ∈ [0x38, 0x39, 0x61, 0x62] := by
  decide +revert

theorem formatText_v4fix_variant (r : Rnd) :
    (formatText (v4fix r))[19] ∈ [0x38, 0x39, 0x61, 0x62] := by
  have hchar : (formatText (v4fix r))[19] = hexchr (sliceOf (v4fix r) 16) := formatText_posOf _ 16
  rw [hchar]
  exact hexchr_of_variant (sliceOf_v4fix_variant r)

end Sys2Proof.Machine

section

open Sys2Proof Sys2Proof.Machine

/-- Settles O31 (R125): the fix-up is a mask and an OR on the raw words, it reads none of the six bits it
replaces, and it changes no other bit. -/
theorem v4genInWordForm : Obligations.V4genInWordForm := by
  refine ⟨fun _ r rawHigh rawLow hunit hhigh hlow => ?wordForm,
    fun _ _ _ hbytes hversion hvariant => ?sixBits, fun s r u h hunit => ?idempotent⟩
  case wordForm =>
    have hrawHigh : rawHigh = (packBytes r).high :=
      BitVec.eq_of_toNat_eq (hhigh.trans (packBytes_high_toNat r).symm)
    have hrawLow : rawLow = (packBytes r).low :=
      BitVec.eq_of_toNat_eq (hlow.trans (packBytes_low_toNat r).symm)
    rw [exec_v4gen_of_present hunit, v4fix_eq_wordForm, hrawHigh, hrawLow]
    rfl
  case sixBits => rw [exec, exec, execV4gen_eq, execV4gen_eq, v4fix_congr hbytes hversion hvariant]
  case idempotent =>
    rw [exec_v4gen_of_present hunit] at h
    have hvalue : v4fix r = u :=
      rowValue_inj.mp (Option.some_inj.mp (cycle_injective s (Host.Outcome.next.inj h)))
    subst hvalue
    rw [exec_v4gen_of_present hunit, v4fix_bytesOf_v4fix]

/-- Settles O32 (R67, R127): the fixed nibbles are nibble 12, whose character stands at position 14, and
nibble 16, whose character stands at position 19. -/
theorem generatedValuesCarryVersionAndVariant :
    Obligations.GeneratedValuesCarryVersionAndVariant :=
  fun _ r hunit => ⟨v4fix r, formatText (v4fix r), exec_v4gen_of_present hunit r,
    high_extract_version r, low_extract_variant r, exec_v4gens_of_present hunit r,
    formatText_v4fix_version r, formatText_v4fix_variant r⟩

/-- Settles O34 (R129; log entry 8): both operations answer through the unit's presence. -/
theorem absentUnitAnswersBadOp : Obligations.AbsentUnitAnswersBadOp := by
  intro s r habsent
  constructor
  · rw [exec, execV4gen_eq, ifV4gen_absent habsent, drive_badOp]
  · rw [exec, execV4gens_eq, ifV4gen_absent habsent, drive_badOp]

end
